-- ==== Sys2Proof/Word.lean ====
section
/-! DEFINITION. The byte, the word of condition signals, and the plainest conversions between bytes and numbers (R182: more than one byte is sent high byte first). -/

namespace Sys2Proof

/-- One byte of a frame (R182). -/
abbrev Byte := BitVec 8

/-- The condition word: bit `k` is signal `Ck` (R66, R186). -/
abbrev CondWord := BitVec 12

/-- The byte of a number below 256. -/
def byte (n : Nat) : Byte := BitVec.ofNat 8 n

/-- A 0 or 1 for a flag. -/
def bit (b : Bool) : Nat := if b then 1 else 0

/-- Two bytes, high byte first (R182). -/
def word16 (n : Nat) : List Byte := [byte (n / 256), byte (n % 256)]

/-- The number two bytes spell, high byte first (R182). -/
def num16 (hi lo : Byte) : Nat := hi.toNat * 256 + lo.toNat

/-- The signed number two bytes spell in two's complement (R182). -/
def int16 (hi lo : Byte) : Int := (hi.append lo).toInt

/-- Two bytes of a signed number in two's complement, high byte first (R182). -/
def signed16 (i : Int) : List Byte := word16 (i % 65536).toNat

end Sys2Proof
end

