-- ==== Sys2Proof/Config.lean ====
section
/-! DEFINITION. What the manual fixes for every JG48 (depths, durations), and the free values: constants with no body, for the values and orders the manual leaves open. -/

namespace Sys2Proof.Config

/-- Frames each relay FIFO holds (R143). -/
def fifoDepth : Nat := 16
/-- Frames the reply list holds (R146). -/
def replyDepth : Nat := 8
/-- Entries the Hold Queue holds (R129). -/
def holdDepth : Nat := 16
/-- Body bytes a frame may carry (R137). -/
def bodyMax : Nat := 16

/-- Length of SETTLE in ms (R159). -/
def settleMs : Nat := 500
/-- Scan interval out of doze, in ms (R47). -/
def scanMs : Nat := 100
/-- Scan interval in doze, in ms (R47). -/
def dozeScanMs : Nat := 2000
/-- Quiet timer in ms (R157). -/
def quietMs : Nat := 60000
/-- What a SUPPLY reading must exceed the threshold by for LAST to fall, in 10 mV steps (R53). -/
def lastMargin : Nat := 30
/-- Top of the converter's range in 10 mV steps (R46). -/
def readingMax : Int := 4000

/-- Free value: where the manual lets two blocks take one event in either order, whether the
first-named block takes it first. Applied to the state's count of such choices (log entry 5). -/
opaque takesFirst : Nat → Bool

/-- Free value: the prior level (less one) of a dimmable load enforced off by an ON report that
carries no level (log entry 6). -/
opaque unstatedLevel : Nat → Fin 100

/-- Free value: the request code a reply names when the MANAGE body it answers is empty (log entry 7). -/
opaque unstatedCode : Nat → Byte

end Sys2Proof.Config
end

