-- ==== Sys2Proof/Syntax.lean ====
section
/-! DEFINITION. The commands the part takes: one constructor of `Instr` for each row of spec/opcode_table.json, with the row's operands. -/

namespace Sys2Proof

/-- The two halves of the cabin control line (R137). -/
inductive Line where
  | panel
  | load
deriving DecidableEq, Repr

/-- The seven kinds of frame (R182). -/
inductive FrameKind where
  | switch
  | state
  | meter
  | data
  | manage
  | reply
  | notice
deriving DecidableEq, Repr

/-- A frame's header and body; its length byte and its check are computed (R182). -/
structure Frame where
  kind : FrameKind
  src : Byte
  dst : Byte
  body : List Byte
deriving DecidableEq, Repr

/-- A load number 0..47 (R1). -/
abbrev LoadNo := Fin 48

/-- A watch W1..W8, counted from 0 (R61). -/
abbrev WatchNo := Fin 8

/-- One command or event of the part: a row of the opcode table. Operands of frames are the frame's
own bytes; a reading is in 10 mV steps before the converter saturates (R46). -/
inductive Instr where
  /-- ON_REQUEST (R120) -/
  | onRequest (src dst channel : Byte)
  /-- LEVEL_REQUEST (R122) -/
  | levelRequest (src dst channel level : Byte)
  /-- OFF_REQUEST: OFF or LEVEL 0 (R127) -/
  | offRequest (src dst channel : Byte)
  /-- ON_REPORT; the level byte may be absent (R183) -/
  | onReport (src dst output : Byte) (level : Option Byte)
  /-- OFF_REPORT (R37) -/
  | offReport (src dst output : Byte)
  /-- WINDING_REPORT (R38) -/
  | windingReport (src dst output : Byte)
  /-- STOPPED_REPORT (R39) -/
  | stoppedReport (src dst output : Byte)
  /-- FAULT_REPORT (R40) -/
  | faultReport (src dst output : Byte)
  /-- METER_ARRIVAL: a good METER frame from the load line (R57, R142) -/
  | meterArrival (src dst : Byte) (body : List Byte)
  /-- DATA_FRAME (R141) -/
  | dataFrame (line : Line) (src dst : Byte) (body : List Byte)
  /-- FRAME_IGNORED (R140) -/
  | frameIgnored (line : Line) (kind : FrameKind) (src dst : Byte) (body : List Byte)
  /-- FRAME_DISCARDED: the bytes received, check included (R137) -/
  | frameDiscarded (line : Line) (bytes : List Byte)
  /-- READ_ENTRY (R168) -/
  | readEntry (src load copy : Byte)
  /-- WRITE_DRAFT (R11) -/
  | writeDraft (src load : Byte) (record : List Byte)
  /-- DISCARD_DRAFT (R12) -/
  | discardDraft (src load : Byte)
  /-- PUBLISH (R13) -/
  | publish (src load : Byte)
  /-- RETIRE (R20) -/
  | retire (src load : Byte)
  /-- MAP; 255 names no load (R10, R185) -/
  | map (src channel load : Byte)
  /-- READ_MAP (R169) -/
  | readMap (src start : Byte)
  /-- WRITE_STAGE (R70) -/
  | writeStage (src : Byte) (record : List Byte)
  /-- READ_STAGE (R70) -/
  | readStage (src stage copy : Byte)
  /-- PUBLISH_LADDER (R71) -/
  | publishLadder (src : Byte)
  /-- WRITE_WATCH (R64) -/
  | writeWatch (src : Byte) (record : List Byte)
  /-- READ_WATCH (R64) -/
  | readWatch (src watch : Byte)
  /-- WRITE_SETTING (R166) -/
  | writeSetting (src code : Byte) (value : List Byte)
  /-- READ_SETTING (R166) -/
  | readSetting (src code : Byte)
  /-- READ_STATUS (R170) -/
  | readStatus (src : Byte)
  /-- READ_RESET_CAUSE (R170) -/
  | readResetCause (src : Byte)
  /-- DUMP_OPEN (R172) -/
  | dumpOpen (src collection start : Byte)
  /-- DUMP_NEXT (R173) -/
  | dumpNext (src : Byte)
  /-- DUMP_CLOSE (R172) -/
  | dumpClose (src : Byte)
  /-- SENSE (R49) -/
  | sense (src input : Byte)
  /-- SET_MODE (R151) -/
  | setMode (src mode : Byte)
  /-- SAVE (R174) -/
  | save (src : Byte)
  /-- WARM_RESTART (R163) -/
  | warmRestart (src : Byte)
  /-- ATTENTION_QUERY (R179) -/
  | attentionQuery (src : Byte)
  /-- ATTENTION_CLEAR (R180) -/
  | attentionClear (src cause : Byte)
  /-- ATTENTION_ENABLE (R180) -/
  | attentionEnable (src cause : Byte)
  /-- ATTENTION_DISABLE (R180) -/
  | attentionDisable (src cause : Byte)
  /-- ATTENTION_RELEASE (R180) -/
  | attentionRelease (src cause : Byte)
  /-- MANAGE_UNKNOWN_REQUEST: the whole body (R164) -/
  | manageUnknownRequest (src : Byte) (body : List Byte)
  /-- LOAD_TX_START (R144) -/
  | loadTxStart
  /-- LOAD_TX_END (R145) -/
  | loadTxEnd
  /-- PANEL_TX_START (R147) -/
  | panelTxStart
  /-- PANEL_TX_END (R147) -/
  | panelTxEnd
  /-- MIN_ON_EXPIRY (R26) -/
  | minOnExpiry (n : LoadNo)
  /-- LOCKOUT_EXPIRY (R27) -/
  | lockoutExpiry (n : LoadNo)
  /-- ANSWER_EXPIRY (R29) -/
  | answerExpiry (n : LoadNo)
  /-- GRACE_EXPIRY_CUT (R97) -/
  | graceExpiryCut (n : LoadNo)
  /-- GRACE_EXPIRY_KEEP (R98) -/
  | graceExpiryKeep (n : LoadNo)
  /-- STALENESS_EXPIRY (R58) -/
  | stalenessExpiry
  /-- WATCH_DWELL_EXPIRY (R62) -/
  | watchDwellExpiry (w : WatchNo)
  /-- EXIT_DWELL_EXPIRY (R77) -/
  | exitDwellExpiry
  /-- OVERRUN_EXPIRY (R86) -/
  | overrunExpiry
  /-- STAGGER_EXPIRY (R115) -/
  | staggerExpiry
  /-- HOLD_LIFETIME_EXPIRY: of the entry held for the load (R130) -/
  | holdLifetimeExpiry (n : LoadNo)
  /-- QUIET_TIMER_EXPIRY (R157) -/
  | quietTimerExpiry
  /-- SCAN_ROUND_START (R47) -/
  | scanRoundStart
  /-- SCAN_CONVERSION_END (R47) -/
  | scanConversionEnd (reading : Int)
  /-- REQUEST_CONVERSION_END (R51) -/
  | requestConversionEnd (reading : Int)
  /-- SETTLE_END (R159) -/
  | settleEnd
  /-- LOAD_COMPLETE: whether the copy read is undamaged (R160) -/
  | loadComplete (undamaged : Bool)
  /-- SAVE_COMPLETE: whether the copy written reads back equal (R175) -/
  | saveComplete (copyMatches : Bool)
  /-- POWER_ON (R162) -/
  | powerOn
  /-- BROWN_OUT (R54) -/
  | brownOut
  /-- RESET_LINE_ASSERT (R162) -/
  | resetLineAssert
  /-- RESET_LINE_RELEASE (R162) -/
  | resetLineRelease
  /-- SUPPLY_RECOVERY (R54) -/
  | supplyRecovery
  /-- FAILED_SWITCH_FRAME: a panel-line SWITCH body that fails its checks (R183) -/
  | failedSwitchFrame (src dst : Byte) (body : List Byte)
  /-- FAILED_STATE_FRAME: a load-line STATE body that fails its checks (R183) -/
  | failedStateFrame (src dst : Byte) (body : List Byte)
deriving DecidableEq, Repr

end Sys2Proof
end

