-- ==== Sys2Proof/Machine/State.lean ====
section
/-! DEFINITION. The state of the part, block by block (00, Blocks), as plain data; the outcomes' reasons; and the state right after a reset. Times are remaining times in ms; quantities are in the manual's steps. -/

namespace Sys2Proof.Machine

/-! ### The Load Controller -/

/-- Where a load is switched (R3). `direct 0` is D1. -/
inductive Target where
  | module (node output : Nat)
  | direct (d : Fin 4)
deriving DecidableEq, Repr

/-- What happens when grace runs out (R3). -/
inductive ExpiryAction where
  | cut
  | keep
deriving DecidableEq, Repr

/-- How a load is shed; grace (seconds) and expiry action are present exactly for WIND (R3). -/
inductive Method where
  | cut
  | wind (grace : Nat) (action : ExpiryAction)
deriving DecidableEq, Repr

/-- A load's relation to the governor (R5). -/
inductive Authority where
  | governed
  | pass
  | forcedOff
deriving DecidableEq, Repr

/-- A load configuration (R3): draw in 0.1 A, min-on and min-off in seconds. -/
structure LoadConfig where
  homeChannel : Nat
  target : Target
  tier : Nat
  draw : Nat
  method : Method
  minOn : Nat
  minOff : Nat
  hold : Bool
  restoreAuto : Bool
  dimmable : Bool
  authority : Authority
deriving DecidableEq, Repr

/-- The eight states of a live load (R23). -/
inductive LoadState where
  | unknown
  | absent
  | off
  | lockout
  | on
  | winding
  | shed
  | restoring
deriving DecidableEq, Repr

/-- An owed command (R30). `since` orders owed ONs by the moment of their decision (R144). -/
inductive Owed where
  | off
  | wind
  | on (level : Option Nat) (since : Nat)
  | query
deriving DecidableEq, Repr

/-- A runtime record (R6). -/
structure Runtime where
  state : LoadState
  level : Option Nat := none
  prior : Option Nat := none
  owed : Option Owed := none
  minOn : Option Nat := none
  lockout : Option Nat := none
  grace : Option Nat := none
  answer : Option Nat := none
  overdue : Bool := false
  userOff : Bool := false
  withdrawn : Bool := false
deriving DecidableEq, Repr

/-- A live configuration and the runtime record that goes with it (R1). -/
structure Live where
  config : LoadConfig
  run : Runtime
deriving DecidableEq, Repr

/-- A slot of the Load Table (R1): its condition is which of the two it holds. -/
structure Slot where
  live : Option Live := none
  draft : Option LoadConfig := none
deriving DecidableEq, Repr

/-- The Load Controller: Load Table (R1), Channel Map (R7), direct outputs (R21). `decisions` counts
the ON decisions made (log entry 27). -/
structure LoadController where
  slots : Vector Slot 48
  map : Vector (Option LoadNo) 128
  outputs : Vector Bool 4
  decisions : Nat
deriving DecidableEq, Repr

/-! ### Ports and relay -/

/-- The relay FIFOs, the reply list and the frames in flight (R143, R144, R146, R147); oldest first. -/
structure Ports where
  panelFifo : List Frame
  loadFifo : List Frame
  replies : List Frame
  panelTx : Option Frame
  loadTx : Option Frame
deriving DecidableEq, Repr

/-- An entry of the Node Side Table (R138). -/
inductive NodeSide where
  | unseen
  | panel
  | load
deriving DecidableEq, Repr

/-! ### The Sense Unit and the Meter Tap -/

/-- The four sense inputs (R46). -/
inductive SenseInput where
  | leisure
  | chassis
  | aux
  | supply
deriving DecidableEq, Repr

/-- The conversion in flight (R48). -/
structure Conversion where
  input : SenseInput
  forRequest : Bool
deriving DecidableEq, Repr

/-- What the sense-request slot holds (R49). -/
structure SenseRequest where
  requester : Nat
  input : SenseInput
  begun : Bool
deriving DecidableEq, Repr

/-- The Sense Unit (R46 to R53). Readings are in 10 mV steps. `round` is the round in progress with
the inputs it has still to convert; `roundOwed` says that another begins when it finishes (R47). -/
structure SenseUnit where
  leisure : Option Nat
  chassis : Option Nat
  aux : Option Nat
  supply : Option Nat
  converting : Option Conversion
  round : Option (List SenseInput)
  scanTimer : Option Nat
  roundOwed : Bool
  slot : Option SenseRequest
  last : Bool
deriving DecidableEq, Repr

/-- The Meter Tap (R55): current in 0.1 A, negative is discharge; state of charge in 0.5 %. -/
structure MeterTap where
  current : Option Int
  soc : Option Nat
  temperature : Option Int
  solar : Bool
  alternator : Bool
  shore : Bool
  staleTimer : Option Nat
  stale : Bool
  charge : Bool
deriving DecidableEq, Repr

/-! ### The watches -/

/-- The sources of a watch (R61). -/
inductive Source where
  | leisureV
  | chassisV
  | auxV
  | netA
  | dischargeA
  | soc
  | battTemp
deriving DecidableEq, Repr

/-- The comparison of a watch (R61). -/
inductive Comparison where
  | below
  | above
deriving DecidableEq, Repr

/-- A watch definition (R61); threshold and hysteresis in the source's step, dwell in 0.1 s. -/
structure WatchDef where
  enable : Bool
  source : Source
  comparison : Comparison
  threshold : Int
  hysteresis : Nat
  dwell : Nat
deriving DecidableEq, Repr

/-- A watch: definition, output and dwell timer (R62). -/
structure Watch where
  defn : WatchDef
  output : Bool
  dwell : Option Nat
deriving DecidableEq, Repr

/-! ### The Ladder Controller -/

/-- A term of a pattern (R73). -/
inductive Term where
  | ignore
  | low
  | high
  | rise
  | fall
  | edge
deriving DecidableEq, Repr

/-- A pattern: a term for each of C0..C11 and the mode, ANY or ALL (R73). -/
structure Pattern where
  any : Bool
  terms : Vector Term 12
deriving DecidableEq, Repr

/-- A stage 1..7 (R69): ceiling in 0.1 A, exit dwell in seconds. -/
structure Stage where
  enable : Bool
  cutTier : Nat
  ceiling : Nat
  entry : Pattern
  exit : Pattern
  exitDwell : Nat
deriving DecidableEq, Repr

/-- A ladder (R69): stage 0's ceiling, the restore stagger in 0.5 s, the overrun dwell in seconds,
and stages 1..7. -/
structure Ladder where
  ceiling0 : Nat
  stagger : Nat
  overrunDwell : Nat
  stages : Vector Stage 7
deriving DecidableEq, Repr

/-- Why a load was shed (R88). -/
inductive ShedCause where
  | stage (n : Nat)
  | budget
  | storage
  | lastGasp
deriving DecidableEq, Repr

/-- An entry of the Shed Stack (R88). -/
structure StackEntry where
  load : LoadNo
  cause : ShedCause
  prior : Option Nat
deriving DecidableEq, Repr

/-- The restore sequencer (R105). -/
inductive Sequencer where
  | idle
  | restoring (n : LoadNo)
  | stagger (left : Nat)
deriving DecidableEq, Repr

/-- The Ladder Controller (chapters 4 and 6). The stack's head is its top. -/
structure LadderController where
  live : Ladder
  draft : Option Ladder
  active : Fin 8
  exitDwell : Option Nat
  overHigh : Bool
  overrun : Option Nat
  stack : List StackEntry
  seq : Sequencer
deriving DecidableEq, Repr

/-! ### The Admission Unit -/

/-- The command of an ON or LEVEL request (R119). -/
inductive Wish where
  | on
  | level (n : Nat)
deriving DecidableEq, Repr

/-- An entry of the Hold Queue (R129). -/
structure Held where
  load : LoadNo
  requester : Nat
  channel : Nat
  wish : Wish
  lifetime : Option Nat
deriving DecidableEq, Repr

/-! ### The Management Unit -/

/-- The governor modes (R150). -/
inductive Mode where
  | starting
  | governing
  | bypass
  | storage
deriving DecidableEq, Repr

/-- The settings (R166): answer timeout and threshold in 0.1 s and 0.1 V, stale timeout in seconds,
hold lifetime in minutes. `managers` are the four places of the manager list, 0 for an unused one. -/
structure Settings where
  nodeAddress : Nat
  monitorNode : Nat
  managers : List Nat
  answerTimeout : Nat
  staleTimeout : Nat
  holdLifetime : Nat
  preWarning : Nat
  startMode : Mode
deriving DecidableEq, Repr

/-- The collections of the dump cursor (R171). -/
inductive Collection where
  | stack
  | queue
  | loads
  | nodes
deriving DecidableEq, Repr

/-- An open dump cursor (R171). -/
structure Cursor where
  owner : Nat
  collection : Collection
  next : Nat
deriving DecidableEq, Repr

/-- What the store holds (R160, R174). -/
structure StoreContent where
  configs : Vector (Option LoadConfig) 48
  map : Vector (Option LoadNo) 128
  ladder : Ladder
  watches : Vector WatchDef 8
  settings : Settings
deriving DecidableEq, Repr

/-- A save in flight (R174). -/
structure SaveOp where
  node : Nat
  content : StoreContent
deriving DecidableEq, Repr

/-- The Management Unit. The store is `none` when its check would fail (R160, R174). -/
structure Management where
  settings : Settings
  cursor : Option Cursor
  save : Option SaveOp
  store : Option StoreContent
deriving DecidableEq, Repr

/-! ### The Attention Unit -/

/-- The fifteen causes in priority order (R176). -/
inductive Cause where
  | stageChange
  | lastGasp
  | windTimeout
  | loadFault
  | noAnswer
  | localOn
  | budgetStuck
  | meterStale
  | holdFull
  | holdExpired
  | nodeConflict
  | lineError
  | relayOverflow
  | tableLost
  | enforced
deriving DecidableEq, Repr

/-- The flags of a cause (R177). -/
structure CauseFlags where
  pending : Bool
  enabled : Bool
  inService : Bool
deriving DecidableEq, Repr

/-! ### Mode Control -/

/-- The start-up phases (R150). -/
inductive Phase where
  | settle
  | load
  | census
deriving DecidableEq, Repr

/-- The kinds of reset (R162). -/
inductive ResetKind where
  | powerOn
  | brownOut
  | resetLine
  | warmRestart
deriving DecidableEq, Repr

/-- Mode Control (R150): `settle` is the rest of SETTLE, `census` the census set while one runs,
`lastReset` and `storeValid` the reset cause record, `supplyHold` and `lineHold` what holds the part
in reset (R54, R162). -/
structure ModeControl where
  mode : Mode
  phase : Option Phase
  settle : Option Nat
  census : Option (List LoadNo)
  doze : Bool
  quiet : Option Nat
  lastReset : ResetKind
  storeValid : Bool
  supplyHold : Bool
  lineHold : Bool
deriving DecidableEq, Repr

/-! ### The whole part -/

/-- The state of the part. `choices` counts the orders and open values taken from the free values
(log entry 5); `pending` is the queue of commands waiting, first in first out (log entry 1). -/
structure State where
  loads : LoadController
  ports : Ports
  sides : Vector NodeSide 62
  sense : SenseUnit
  meter : MeterTap
  watches : Vector Watch 8
  ladder : LadderController
  hold : List Held
  mgmt : Management
  attention : Vector CauseFlags 15
  control : ModeControl
  choices : Nat
  pending : List Instr
deriving DecidableEq, Repr

/-- Why a step could stop with a fault. No command of the JG48 stops the part, so there is no reason. -/
inductive Fault where
deriving DecidableEq, Repr

/-- Why a step could refuse a command. -/
inductive Refusal where
  /-- Raised by a command whose meaning is not written yet; safe. No arm of `exec` uses it. -/
  | notModelled (mnemonic : String)
deriving DecidableEq, Repr

/-! ### Values after a reset -/

/-- The pattern whose every term is IGNORE, in mode ALL (R69). -/
def Pattern.blank : Pattern := { any := false, terms := Vector.replicate 12 .ignore }

/-- A stage of the default ladder (R69). -/
def Stage.default : Stage :=
  { enable := false, cutTier := 8, ceiling := 6000, entry := .blank, exit := .blank, exitDwell := 0 }

/-- The default ladder (R69). -/
def Ladder.default : Ladder :=
  { ceiling0 := 6000, stagger := 6, overrunDwell := 10, stages := Vector.replicate 7 .default }

/-- The default settings (R166). -/
def Settings.default : Settings :=
  { nodeAddress := 62, monitorNode := 61, managers := [0, 0, 0, 0], answerTimeout := 10,
    staleTimeout := 5, holdLifetime := 30, preWarning := 110, startMode := .bypass }

/-- A disabled watch definition; the manual gives only that it is disabled (R65, log entry 18). -/
def WatchDef.disabled : WatchDef :=
  { enable := false, source := .leisureV, comparison := .below, threshold := 0, hysteresis := 0, dwell := 0 }

/-- A watch as it stands after a reset: low, with no dwell timer (R65). -/
def Watch.fresh (d : WatchDef) : Watch := { defn := d, output := false, dwell := none }

/-- The Load Controller after a power-on, brown-out or reset-line reset (R22). -/
def LoadController.reset : LoadController :=
  { slots := Vector.replicate 48 {}, map := Vector.replicate 128 none,
    outputs := Vector.replicate 4 false, decisions := 0 }

/-- The ports after such a reset (R149). -/
def Ports.reset : Ports :=
  { panelFifo := [], loadFifo := [], replies := [], panelTx := none, loadTx := none }

/-- The Sense Unit after such a reset (R46, R52, R53). -/
def SenseUnit.reset : SenseUnit :=
  { leisure := none, chassis := none, aux := none, supply := none, converting := none, round := none,
    scanTimer := none, roundOwed := false, slot := none, last := false }

/-- The Meter Tap after such a reset (R55). -/
def MeterTap.reset : MeterTap :=
  { current := none, soc := none, temperature := none, solar := false, alternator := false,
    shore := false, staleTimer := none, stale := true, charge := false }

/-- The Ladder Controller after such a reset (R92, R118). -/
def LadderController.reset : LadderController :=
  { live := .default, draft := none, active := 0, exitDwell := none, overHigh := false, overrun := none,
    stack := [], seq := .idle }

/-- Mode Control after such a reset, its record aside (R150, R159). -/
def ModeControl.reset : ModeControl :=
  { mode := .starting, phase := some .settle, settle := some Config.settleMs, census := none,
    doze := false, quiet := none, lastReset := .powerOn, storeValid := false, supplyHold := false,
    lineHold := false }

/-- The part at the start of SETTLE after its first power-on: every field at the value the manual
gives after a POWER-ON reset, the store never written (log entry 4), no command waiting. -/
def State.reset : State :=
  { loads := .reset
    ports := .reset
    sides := Vector.replicate 62 .unseen
    sense := .reset
    meter := .reset
    watches := Vector.replicate 8 (Watch.fresh .disabled)
    ladder := .reset
    hold := []
    mgmt := { settings := .default, cursor := none, save := none, store := none }
    attention := Vector.replicate 15 { pending := false, enabled := true, inService := false }
    control := .reset
    choices := 0
    pending := [] }

end Sys2Proof.Machine
end

