-- ==== Sys2Proof/Machine/Flags.lean ====
section
/-! DEFINITION. The condition word and everything judged from it: watches (R61, R62, R64), LAST (R53), the word and its changes (R66), pattern terms and patterns (R73, R74). -/

namespace Sys2Proof.Machine

/-! ### Watches -/

/-- The value is beyond the threshold (R61). -/
def WatchDef.beyond (d : WatchDef) (v : Int) : Bool :=
  match d.comparison with
  | .below => v < d.threshold
  | .above => d.threshold < v

/-- The value is back past the threshold by the hysteresis (R61). -/
def WatchDef.back (d : WatchDef) (v : Int) : Bool :=
  match d.comparison with
  | .below => d.threshold + d.hysteresis ≤ v
  | .above => v ≤ d.threshold - d.hysteresis

/-- The sources fed by METER frames (R61). -/
def Source.isMeter : Source → Bool
  | .leisureV => false
  | .chassisV => false
  | .auxV => false
  | .netA => true
  | .dischargeA => true
  | .soc => true
  | .battTemp => true

/-- An enabled watch takes a sample (R62): the run it begins, continues or breaks. -/
def Watch.sample (w : Watch) (v : Int) : Watch :=
  if w.defn.enable then
    if (if w.output then w.defn.back v else w.defn.beyond v) then
      match w.dwell with
      | some _ => w
      | none =>
        if w.defn.dwell = 0 then { w with output := !w.output }
        else { w with dwell := some (w.defn.dwell * 100) }
    else { w with dwell := none }
  else w

/-- The watch after its dwell timer expires (R62). -/
def Watch.expire (w : Watch) : Watch := { w with output := !w.output, dwell := none }

/-- The watch after a write of its definition, `latest` the source's latest value if any (R64). -/
def Watch.write (w : Watch) (d : WatchDef) (latest : Option Int) : Watch :=
  { defn := d
    dwell := none
    output :=
      match latest with
      | none => false
      | some v => d.enable && (d.beyond v || (!d.back v && w.output)) }

/-- The watch with its dwell timer cancelled (R58, R63). -/
def Watch.stopDwell (w : Watch) : Watch := { w with dwell := none }

/-! ### LAST, the meter and the word -/

/-- LAST after a SUPPLY reading in 10 mV steps, against the threshold setting in 0.1 V (R53). -/
def lastAfter (last : Bool) (reading threshold : Nat) : Bool :=
  if last then reading ≤ threshold * 10 + Config.lastMargin else reading < threshold * 10

/-- Measured discharge (R55): the magnitude of a negative current, 0 otherwise, absent without one. -/
def MeterTap.discharge (m : MeterTap) : Option Nat := m.current.map fun c => (-c).toNat

/-- Signal `Ck` of the condition word (R66). -/
def State.signal (s : State) (k : Fin 12) : Bool :=
  if h : k.val < 8 then s.watches[k.val].output
  else if k.val = 8 then s.meter.stale
  else if k.val = 9 then s.meter.charge
  else if k.val = 10 then s.ladder.overHigh
  else s.sense.last

/-- The word whose bit `k` is `f k`. -/
def wordOf (f : Fin 12 → Bool) : CondWord :=
  (List.finRange 12).foldl (fun w k => w ||| (BitVec.ofNat 12 (bit (f k)) <<< k.val)) 0

/-- The condition word, C0 in bit 0 (R66). -/
def State.word (s : State) : CondWord := wordOf s.signal

/-- A condition change: the signals that rose and those that fell (R66). -/
structure Change where
  rises : CondWord
  falls : CondWord
deriving DecidableEq, Repr

/-- The change of an evaluation that is taken for none: no edge term holds (R73). -/
def Change.none : Change := { rises := 0, falls := 0 }

/-- The change from one word to another (R66). -/
def Change.between (before after : CondWord) : Change :=
  { rises := after &&& ~~~before, falls := before &&& ~~~after }

/-- Whether the change contains the signal with direction RISE (R73). -/
def Change.rose (c : Change) (k : Fin 12) : Bool := c.rises.getLsbD k

/-- Whether the change contains the signal with direction FALL (R73). -/
def Change.fell (c : Change) (k : Fin 12) : Bool := c.falls.getLsbD k

/-- An event that changes no signal makes no condition change (R66). -/
def Change.isNone (c : Change) : Bool := c.rises == 0 && c.falls == 0

/-! ### Patterns -/

/-- The term holds for signal `k` at an evaluation with this word and change (R73). -/
def Term.holds (t : Term) (word : CondWord) (c : Change) (k : Fin 12) : Bool :=
  match t with
  | .ignore => false
  | .low => !word.getLsbD k
  | .high => word.getLsbD k
  | .rise => c.rose k
  | .fall => c.fell k
  | .edge => c.rose k || c.fell k

/-- A term other than IGNORE takes part (R73). -/
def Term.takesPart (t : Term) : Bool := t != .ignore

/-- RISE, FALL and EDGE are the edge terms (R73). -/
def Term.isEdge : Term → Bool
  | .ignore => false
  | .low => false
  | .high => false
  | .rise => true
  | .fall => true
  | .edge => true

/-- A pattern whose every term is IGNORE (R71, R74). -/
def Pattern.isBlank (p : Pattern) : Bool := p.terms.all fun t => !t.takesPart

/-- The pattern is satisfied at an evaluation (R74). -/
def Pattern.satisfied (p : Pattern) (word : CondWord) (c : Change) : Bool :=
  !p.isBlank &&
    if p.any then (List.finRange 12).any fun k => p.terms[k].holds word c k
    else (List.finRange 12).all fun k => !p.terms[k].takesPart || p.terms[k].holds word c k

/-- The pattern is satisfied on levels alone (R74). -/
def Pattern.onLevels (p : Pattern) (word : CondWord) : Bool := p.satisfied word .none

/-- At least one edge term of the pattern holds (R77). -/
def Pattern.edgeHolds (p : Pattern) (word : CondWord) (c : Change) : Bool :=
  (List.finRange 12).any fun k => p.terms[k].isEdge && p.terms[k].holds word c k

/-! ### The active stage -/

/-- The cut tier of a stage number; stage 0's is 8 (R69). -/
def Ladder.cutTier (l : Ladder) (i : Fin 8) : Nat :=
  if h : i.val = 0 then 8 else (l.stages[i.val - 1]'(by omega)).cutTier

/-- The budget ceiling of a stage number (R69). -/
def Ladder.ceiling (l : Ladder) (i : Fin 8) : Nat :=
  if h : i.val = 0 then l.ceiling0 else (l.stages[i.val - 1]'(by omega)).ceiling

/-- The stage is enabled; stage 0 always is (R69). -/
def Ladder.enabled (l : Ladder) (i : Fin 8) : Bool :=
  if h : i.val = 0 then true else (l.stages[i.val - 1]'(by omega)).enable

/-- The entry pattern of a stage; stage 0 has none, which is never satisfied (R69, R74). -/
def Ladder.entry (l : Ladder) (i : Fin 8) : Pattern :=
  if h : i.val = 0 then .blank else (l.stages[i.val - 1]'(by omega)).entry

/-- The exit pattern of a stage; stage 0 has none (R69). -/
def Ladder.exit (l : Ladder) (i : Fin 8) : Pattern :=
  if h : i.val = 0 then .blank else (l.stages[i.val - 1]'(by omega)).exit

/-- The exit dwell of a stage in seconds (R69). -/
def Ladder.exitDwell (l : Ladder) (i : Fin 8) : Nat :=
  if h : i.val = 0 then 0 else (l.stages[i.val - 1]'(by omega)).exitDwell

/-- The cut tier of the active stage (R69). -/
def State.cutTier (s : State) : Nat := s.ladder.live.cutTier s.ladder.active

/-- The budget ceiling of the active stage (R69). -/
def State.ceiling (s : State) : Nat := s.ladder.live.ceiling s.ladder.active

/-- Among stage 0 and the enabled stages, neither cut tier nor ceiling rises with the stage number
(R71 check 4, and the law of the ladder). -/
def Ladder.ordered (l : Ladder) : Bool :=
  (List.finRange 8).all fun i => (List.finRange 8).all fun j =>
    !(i < j && l.enabled i && l.enabled j)
      || (l.cutTier j ≤ l.cutTier i && l.ceiling j ≤ l.ceiling i)

/-- Every enabled stage has an entry and an exit pattern that are not blank (R71 check 5). -/
def Ladder.patterned (l : Ladder) : Bool :=
  l.stages.all fun st => !st.enable || (!st.entry.isBlank && !st.exit.isBlank)

/-- The highest stage among those that pass, 0 when none does. -/
def highestStage (p : Fin 8 → Bool) : Fin 8 := ((List.finRange 8).reverse.find? p).getD 0

end Sys2Proof.Machine
end

