-- ==== Sys2Proof/Decode.lean ====
section
/-! DEFINITION. From bits to commands: the frame check and the frame's bytes (R137, R182), and which command a received frame is (R140, R183, R185). The opcode table gives no row any bits, so `decodeTableWord` spells none. -/

namespace Sys2Proof

/-- The command a table word spells. No row of spec/opcode_table.json gives bits, so no word spells one. -/
def decodeTableWord (_nbits _w : Nat) : Option Instr := none

/-- The byte of a frame kind (R182). -/
def kindByte : FrameKind → Byte
  | .switch => 1
  | .state => 2
  | .meter => 3
  | .data => 4
  | .manage => 5
  | .reply => 6
  | .notice => 7

/-- The frame kind of a byte; every other value is an unknown kind (R182). -/
def kindOfByte (b : Byte) : Option FrameKind :=
  if b = 1 then some .switch
  else if b = 2 then some .state
  else if b = 3 then some .meter
  else if b = 4 then some .data
  else if b = 5 then some .manage
  else if b = 6 then some .reply
  else if b = 7 then some .notice
  else none

/-- One bit of the CRC-16 with polynomial x^16+x^12+x^5+1 (R182). -/
def crcShift (r : BitVec 16) : BitVec 16 :=
  if r.msb then (r <<< 1) ^^^ 0x1021#16 else r <<< 1

/-- One byte entering the CRC-16, most significant bit first (R182). -/
def crcByte (r : BitVec 16) (b : Byte) : BitVec 16 :=
  Nat.repeat crcShift 8 (r ^^^ (b.zeroExtend 16 <<< 8))

/-- The CRC-16 of header and body: register all ones at the start, no final inversion (R182). -/
def crc16 (bytes : List Byte) : BitVec 16 := bytes.foldl crcByte 0xFFFF#16

/-- The four header bytes and the body (R182). -/
def Frame.content (f : Frame) : List Byte :=
  kindByte f.kind :: f.src :: f.dst :: byte f.body.length :: f.body

/-- The bytes of a frame on the line, its CRC-16 last, high byte first (R182). -/
def Frame.wire (f : Frame) : List Byte := f.content ++ word16 (crc16 f.content).toNat

/-- An address byte a source may hold; a byte above 63 is taken as 63 (R137, R182). -/
def sourceOk (b : Byte) : Bool := 1 ≤ b.toNat && b.toNat ≤ 62

/-- An address byte a destination may hold: 0 is broadcast, 63 is invalid (R137, R182). -/
def destinationOk (b : Byte) : Bool := b.toNat ≤ 62

/-- The port's check of a received frame: `none` for a frame R137 discards, and for bytes whose number
disagrees with their length byte, whose check bytes then stand elsewhere (the model's choice, log entry 42). -/
def checkFrame (bytes : List Byte) : Option Frame :=
  match bytes with
  | k :: src :: dst :: len :: rest =>
    let body := rest.take len.toNat
    let content := k :: src :: dst :: len :: body
    match kindOfByte k with
    | none => none
    | some kind =>
      if rest.length = len.toNat + 2 ∧ rest.drop len.toNat = word16 (crc16 content).toNat
          ∧ sourceOk src ∧ destinationOk dst ∧ len.toNat ≤ Config.bodyMax then
        some { kind := kind, src := src, dst := dst, body := body }
      else none
  | _ => none

/-- The command of a panel-line SWITCH: a request, or a frame that fails its body checks (R183, R119). -/
def switchCommand (src dst : Byte) (body : List Byte) : Instr :=
  match body with
  | [ch, cmd] =>
    if 127 < ch.toNat then .failedSwitchFrame src dst body
    else if cmd = 1 then .onRequest src dst ch
    else if cmd = 3 then .offRequest src dst ch
    else .failedSwitchFrame src dst body
  | [ch, cmd, level] =>
    if 127 < ch.toNat ∨ cmd ≠ 2 ∨ 100 < level.toNat then .failedSwitchFrame src dst body
    else if level = 0 then .offRequest src dst ch
    else .levelRequest src dst ch level
  | _ => .failedSwitchFrame src dst body

/-- The command of a load-line STATE: a report, or a frame that fails its body checks (R183). -/
def stateCommand (src dst : Byte) (body : List Byte) : Instr :=
  match body with
  | [out, kind] =>
    if 15 < out.toNat then .failedStateFrame src dst body
    else if kind = 1 then .onReport src dst out none
    else if kind = 2 then .offReport src dst out
    else if kind = 3 then .windingReport src dst out
    else if kind = 4 then .stoppedReport src dst out
    else if kind = 5 then .faultReport src dst out
    else .failedStateFrame src dst body
  | [out, kind, level] =>
    if 15 < out.toNat ∨ kind ≠ 1 ∨ level = 0 ∨ 100 < level.toNat then .failedStateFrame src dst body
    else .onReport src dst out (some level)
  | _ => .failedStateFrame src dst body

/-- The requests whose body is the code alone (R185). -/
def manageNullary (src code : Byte) : Option Instr :=
  if code = 10 then some (.publishLadder src)
  else if code = 15 then some (.readStatus src)
  else if code = 16 then some (.readResetCause src)
  else if code = 18 then some (.dumpNext src)
  else if code = 19 then some (.dumpClose src)
  else if code = 22 then some (.save src)
  else if code = 23 then some (.warmRestart src)
  else if code = 24 then some (.attentionQuery src)
  else none

/-- The requests with one argument byte (R185). -/
def manageUnary (src code a : Byte) : Option Instr :=
  if code = 3 then some (.discardDraft src a)
  else if code = 4 then some (.publish src a)
  else if code = 5 then some (.retire src a)
  else if code = 7 then some (.readMap src a)
  else if code = 12 then some (.readWatch src a)
  else if code = 14 then some (.readSetting src a)
  else if code = 20 then some (.sense src a)
  else if code = 21 then some (.setMode src a)
  else none

/-- The requests with two argument bytes, WRITE SETTING of a one-byte value among them (R185). -/
def manageBinary (src code a b : Byte) : Option Instr :=
  if code = 1 then some (.readEntry src a b)
  else if code = 6 then some (.map src a b)
  else if code = 9 then some (.readStage src a b)
  else if code = 13 then some (.writeSetting src a [b])
  else if code = 17 then some (.dumpOpen src a b)
  else if code = 25 then
    if b = 1 then some (.attentionClear src a)
    else if b = 2 then some (.attentionEnable src a)
    else if b = 3 then some (.attentionDisable src a)
    else if b = 4 then some (.attentionRelease src a)
    else none
  else none

/-- The requests that carry a record, and WRITE SETTING of a longer value (R185). -/
def manageRecord (src code : Byte) (args : List Byte) : Option Instr :=
  match args with
  | a :: rest =>
    if code = 2 ∧ rest.length = 13 then some (.writeDraft src a rest)
    else if code = 8 ∧ rest.length = 13 then some (.writeStage src args)
    else if code = 11 ∧ rest.length = 7 then some (.writeWatch src args)
    else if code = 13 ∧ (rest.length = 2 ∨ rest.length = 4) then some (.writeSetting src a rest)
    else none
  | [] => none

/-- The command of a MANAGE body: the request it names with the layout of that request, or
MANAGE_UNKNOWN_REQUEST (R164 check 1, R185). -/
def manageCommand (src : Byte) (body : List Byte) : Instr :=
  let found :=
    match body with
    | [code] => manageNullary src code
    | [code, a] => manageUnary src code a
    | [code, a, b] => manageBinary src code a b
    | code :: args => manageRecord src code args
    | [] => none
  found.getD (.manageUnknownRequest src body)

/-- The start index lies in the collection's index range: STACK 0..47, QUEUE 0..15, LOADS 0..47,
NODES 1..62; no other collection is defined (R171, R172, R185). -/
def dumpIndexOk (collection start : Byte) : Bool :=
  if collection = 1 ∨ collection = 3 then start.toNat ≤ 47
  else if collection = 2 then start.toNat ≤ 15
  else if collection = 4 then 1 ≤ start.toNat && start.toNat ≤ 62
  else false

/-- Whether a good frame of this kind concerns no block on its line of arrival (R140); `toPart` says
that its destination is the part's own address. -/
def ignoredKind (line : Line) (kind : FrameKind) (toPart : Bool) : Bool :=
  match line, kind with
  | .panel, .state => true
  | .panel, .meter => true
  | .panel, .manage => !toPart
  | .load, .switch => true
  | .load, .manage => true
  | _, .reply => true
  | _, .notice => true
  | _, _ => false

/-- The command a frame received whole on a line is, for a part whose node address is `own` (R137, R140). -/
def frameCommand (own : Byte) (line : Line) (bytes : List Byte) : Instr :=
  match checkFrame bytes with
  | none => .frameDiscarded line bytes
  | some f =>
    match line, f.kind with
    | .panel, .switch => switchCommand f.src f.dst f.body
    | .load, .state => stateCommand f.src f.dst f.body
    | .load, .meter => .meterArrival f.src f.dst f.body
    | .panel, .manage =>
      if f.dst = own then manageCommand f.src f.body
      else .frameIgnored line f.kind f.src f.dst f.body
    | _, .data => .dataFrame line f.src f.dst f.body
    | _, _ => .frameIgnored line f.kind f.src f.dst f.body

end Sys2Proof
end

