-- ==== Sys2Proof/Machine/Operands.lean ====
section
/-! DEFINITION. Operand and record forms: the codes and records of R183 to R186, each read from bytes with its checks and written to bytes, and the statuses of 10.6. -/

namespace Sys2Proof.Machine

/-! ### Codes -/

/-- The code of a load state in a note (R183). -/
def LoadState.code : LoadState → Nat
  | .unknown => 1
  | .absent => 2
  | .off => 3
  | .lockout => 4
  | .on => 5
  | .winding => 6
  | .shed => 7
  | .restoring => 8

/-- The code of a mode (R185, R186). -/
def Mode.code : Mode → Nat
  | .starting => 0
  | .governing => 1
  | .bypass => 2
  | .storage => 3

/-- The operating mode a byte names; STARTING and undefined codes name none (R151, R185). -/
def modeOfByte (b : Byte) : Option Mode :=
  if b = 1 then some .governing
  else if b = 2 then some .bypass
  else if b = 3 then some .storage
  else none

/-- The code of a start-up phase (R186). -/
def phaseCode : Option Phase → Nat
  | none => 0
  | some .settle => 1
  | some .load => 2
  | some .census => 3

/-- The code of a reset kind (R185). -/
def ResetKind.code : ResetKind → Nat
  | .powerOn => 1
  | .brownOut => 2
  | .resetLine => 3
  | .warmRestart => 4

/-- The sense input a byte names (R185). -/
def inputOfByte (b : Byte) : Option SenseInput :=
  if b = 1 then some .leisure
  else if b = 2 then some .chassis
  else if b = 3 then some .aux
  else if b = 4 then some .supply
  else none

/-- The code of a sense input (R185). -/
def SenseInput.code : SenseInput → Nat
  | .leisure => 1
  | .chassis => 2
  | .aux => 3
  | .supply => 4

/-- The collection a byte names (R185). -/
def collectionOfByte (b : Byte) : Option Collection :=
  if b = 1 then some .stack
  else if b = 2 then some .queue
  else if b = 3 then some .loads
  else if b = 4 then some .nodes
  else none

/-- The code of a shed cause (R186). -/
def ShedCause.code : ShedCause → Nat
  | .stage n => n
  | .budget => 8
  | .storage => 9
  | .lastGasp => 10

/-- The place of a cause in priority order, counted from 0 (R176). -/
def Cause.index : Cause → Fin 15
  | .stageChange => 0
  | .lastGasp => 1
  | .windTimeout => 2
  | .loadFault => 3
  | .noAnswer => 4
  | .localOn => 5
  | .budgetStuck => 6
  | .meterStale => 7
  | .holdFull => 8
  | .holdExpired => 9
  | .nodeConflict => 10
  | .lineError => 11
  | .relayOverflow => 12
  | .tableLost => 13
  | .enforced => 14

/-- The cause a byte 1..15 names (R180). -/
def causeOfByte (b : Byte) : Option (Fin 15) :=
  if h : 1 ≤ b.toNat ∧ b.toNat ≤ 15 then some ⟨b.toNat - 1, by omega⟩ else none

/-- The load number a byte names; outside 0..47 none (R2, R164). -/
def loadOfByte (b : Byte) : Option LoadNo :=
  if h : b.toNat < 48 then some ⟨b.toNat, h⟩ else none

/-- A Channel Map entry written as a byte: a load number, or 255 for none (R10, R185). -/
def mapEntryOfByte (b : Byte) : Option (Option LoadNo) :=
  if b = 255 then some none else (loadOfByte b).map some

/-- The statuses of a MANAGE reply, in the order of 10.6 (R185). -/
inductive Status where
  | ok
  | denied
  | badArg
  | notFound
  | busy
  | loadBusy
  | loadActive
  | ladderOrder
  | ladderPattern
  | notReady
  | superseded
  | aborted
  | storeFail
deriving DecidableEq, Repr

/-- The code of a status (R185). -/
def Status.code : Status → Nat
  | .ok => 0
  | .denied => 1
  | .badArg => 2
  | .notFound => 3
  | .busy => 4
  | .loadBusy => 5
  | .loadActive => 6
  | .ladderOrder => 7
  | .ladderPattern => 8
  | .notReady => 9
  | .superseded => 10
  | .aborted => 11
  | .storeFail => 12

/-- Why a switch request is refused (R128). -/
inductive RefuseReason where
  | unmapped
  | forced
  | notReady
  | absent
  | stored
  | shed
  | lockout
  | budget
  | holdFull
deriving DecidableEq, Repr

/-- Why a held request is withdrawn (R134). -/
inductive WithdrawReason where
  | replaced
  | expired
  | cancelled
  | fault
  | retired
  | forced
  | absent
  | storage
  | bypass
  | restart
deriving DecidableEq, Repr

/-- The replies to a switch request (R128). -/
inductive SwitchReply where
  | refused (r : RefuseReason)
  | held
  | absorbed
  | granted
  | withdrawn (r : WithdrawReason)
deriving DecidableEq, Repr

/-- The code of a refusal reason (R185). -/
def RefuseReason.code : RefuseReason → Nat
  | .unmapped => 1
  | .forced => 2
  | .notReady => 3
  | .absent => 4
  | .stored => 5
  | .shed => 6
  | .lockout => 7
  | .budget => 8
  | .holdFull => 9

/-- The code of a withdrawal reason (R185). -/
def WithdrawReason.code : WithdrawReason → Nat
  | .replaced => 10
  | .expired => 11
  | .cancelled => 12
  | .fault => 13
  | .retired => 14
  | .forced => 2
  | .absent => 4
  | .storage => 15
  | .bypass => 16
  | .restart => 17

/-- The outcome and reason bytes of a reply to a switch request (R185). -/
def SwitchReply.codes : SwitchReply → Nat × Nat
  | .refused r => (1, r.code)
  | .held => (2, 0)
  | .absorbed => (3, 0)
  | .granted => (4, 0)
  | .withdrawn r => (5, r.code)

/-- Whole units of `d` in `t`, rounded up (R186). -/
def ceilDiv (t d : Nat) : Nat := (t + (d - 1)) / d

/-! ### The configuration record (R3, R186) -/

/-- The fields lie in the ranges of R3, and WIND has a module target (R4, R11). -/
def LoadConfig.valid (c : LoadConfig) : Bool :=
  c.homeChannel ≤ 127 && c.tier ≤ 7 && c.draw ≤ 3000 && c.minOn ≤ 1800 && c.minOff ≤ 1800
    && (match c.target with
        | .module node out => 1 ≤ node && node ≤ 62 && out ≤ 15
        | .direct _ => true)
    && (match c.method, c.target with
        | .cut, _ => true
        | .wind grace _, .module _ _ => 1 ≤ grace && grace ≤ 600
        | .wind _ _, .direct _ => false)

/-- The target two bytes name (R186). -/
def targetOfBytes (node out : Nat) : Option Target :=
  if 1 ≤ node ∧ node ≤ 62 ∧ out ≤ 15 then some (.module node out)
  else if h : node = 0 ∧ 1 ≤ out ∧ out ≤ 4 then some (.direct ⟨out - 1, by omega⟩)
  else none

/-- The method the flag bits and the grace name: CUT needs grace and expiry bit 0 (R186). -/
def methodOf (flags grace : Nat) : Option Method :=
  if flags % 2 = 0 then
    if grace = 0 ∧ flags / 2 % 2 = 0 then some .cut else none
  else some (.wind grace (if flags / 2 % 2 = 1 then .keep else .cut))

/-- The authority of flag bits 5 and 6; 3 is undefined (R186). -/
def authorityOf (flags : Nat) : Option Authority :=
  match flags / 32 % 4 with
  | 0 => some .governed
  | 1 => some .pass
  | 2 => some .forcedOff
  | _ => none

/-- A written configuration record with every check of R11 and R186, or `none` when it is BAD_ARG. -/
def configOfRecord (r : List Byte) : Option LoadConfig :=
  match r with
  | [home, node, out, tier, d1, d0, fl, g1, g0, on1, on0, off1, off0] =>
    match targetOfBytes node.toNat out.toNat, methodOf fl.toNat (num16 g1 g0), authorityOf fl.toNat with
    | some target, some method, some authority =>
      let c : LoadConfig :=
        { homeChannel := home.toNat, target := target, tier := tier.toNat, draw := num16 d1 d0,
          method := method, minOn := num16 on1 on0, minOff := num16 off1 off0,
          hold := fl.toNat / 4 % 2 = 1, restoreAuto := fl.toNat / 8 % 2 = 1,
          dimmable := fl.toNat / 16 % 2 = 1, authority := authority }
      if fl.toNat < 128 ∧ c.valid then some c else none
    | _, _, _ => none
  | _ => none

/-- The target's two bytes (R186). -/
def Target.bytes : Target → List Byte
  | .module node out => [byte node, byte out]
  | .direct d => [0, byte (d.val + 1)]

/-- The code of an authority (R186). -/
def Authority.code : Authority → Nat
  | .governed => 0
  | .pass => 1
  | .forcedOff => 2

/-- Bits 0 and 1 of the flag byte (R186). -/
def Method.bits : Method → Nat
  | .cut => 0
  | .wind _ .cut => 1
  | .wind _ .keep => 3

/-- The grace in seconds, 0 when absent (R186). -/
def Method.grace : Method → Nat
  | .cut => 0
  | .wind g _ => g

/-- The 13 bytes of a configuration record (R186). -/
def LoadConfig.record (c : LoadConfig) : List Byte :=
  byte c.homeChannel :: c.target.bytes ++ [byte c.tier] ++ word16 c.draw
    ++ [byte (c.method.bits + 4 * bit c.hold + 8 * bit c.restoreAuto + 16 * bit c.dimmable
          + 32 * c.authority.code)]
    ++ word16 c.method.grace ++ word16 c.minOn ++ word16 c.minOff

/-! ### The stage record (R69, R186) -/

/-- The term of a code; 6 and 7 are undefined (R186). -/
def termOfCode : Nat → Option Term
  | 0 => some .ignore
  | 1 => some .low
  | 2 => some .high
  | 3 => some .rise
  | 4 => some .fall
  | 5 => some .edge
  | _ => none

/-- The code of a term (R186). -/
def Term.code : Term → Nat
  | .ignore => 0
  | .low => 1
  | .high => 2
  | .rise => 3
  | .fall => 4
  | .edge => 5

/-- The number some bytes spell, high byte first (R182). -/
def numOf (bytes : List Byte) : Nat := bytes.foldl (fun n b => n * 256 + b.toNat) 0

/-- The code of term `k` of the 24, packed 3 bits each from the top bit down (R186). -/
def termCode (packed k : Nat) : Nat := packed / 8 ^ (23 - k) % 8

/-- Twelve of the 24 packed terms, from term `from` on (R186). -/
def termsFrom (packed start : Nat) : Vector Term 12 :=
  Vector.ofFn fun k => (termOfCode (termCode packed (start + k.val))).getD .ignore

/-- What a WRITE STAGE writes (R69, R70). -/
inductive StageWrite where
  | zero (ceiling stagger overrunDwell : Nat)
  | upper (i : Fin 7) (stage : Stage)
deriving DecidableEq, Repr

/-- A written record of one of stages 1..7, from its number, its word of ceiling and modes, its exit
dwell, its first byte and its packed terms (R186). -/
def upperStage (b0 ceilWord dwell packed : Nat) : Option StageWrite :=
  let cut := b0 / 16
  let ceiling := ceilWord % 8192
  if h : 1 ≤ b0 % 8 then
    if 1 ≤ cut ∧ cut ≤ 8 ∧ ceiling ≤ 6000 ∧ ceilWord < 32768 ∧ dwell ≤ 600
        ∧ (List.range 24).all (fun k => (termOfCode (termCode packed k)).isSome) then
      some (.upper ⟨b0 % 8 - 1, by omega⟩
        { enable := b0 / 8 % 2 = 1, cutTier := cut, ceiling := ceiling,
          entry := { any := ceilWord / 8192 % 2 = 1, terms := termsFrom packed 0 },
          exit := { any := ceilWord / 16384 % 2 = 1, terms := termsFrom packed 12 },
          exitDwell := dwell })
    else none
  else none

/-- A written stage record with the checks of R70 and R186, or `none` when it is BAD_ARG. -/
def stageOfRecord (r : List Byte) : Option StageWrite :=
  match r with
  | b0 :: c1 :: c0 :: d1 :: d0 :: terms =>
    if terms.length = 9 then
      if b0.toNat % 8 = 0 then
        if num16 c1 c0 ≤ 6000 ∧ 1 ≤ d1.toNat ∧ d1.toNat ≤ 120 ∧ 1 ≤ d0.toNat ∧ d0.toNat ≤ 60
            ∧ terms.all (· == 0) then
          some (.zero (num16 c1 c0) d1.toNat d0.toNat)
        else none
      else upperStage b0.toNat (num16 c1 c0) (num16 d1 d0) (numOf terms)
    else none
  | _ => none

/-- The 24 terms of a stage packed 3 bits each (R186). -/
def Stage.packed (st : Stage) : Nat :=
  (st.entry.terms.toList ++ st.exit.terms.toList).foldl (fun n t => n * 8 + t.code) 0

/-- The 14 bytes of the record of a stage number (R186). -/
def Ladder.record (l : Ladder) (i : Fin 8) : List Byte :=
  if h : i.val = 0 then
    byte 0x88 :: word16 l.ceiling0 ++ [byte l.stagger, byte l.overrunDwell] ++ List.replicate 9 0
  else
    let st := l.stages[i.val - 1]'(by omega)
    byte (i.val + 8 * bit st.enable + 16 * st.cutTier)
      :: word16 (st.ceiling + 8192 * bit st.entry.any + 16384 * bit st.exit.any)
      ++ word16 st.exitDwell
      ++ (List.range 9).map fun j => byte (st.packed / 256 ^ (8 - j) % 256)

/-! ### The watch record (R61, R186) -/

/-- The source of a code; 7 is undefined (R186). -/
def sourceOfCode : Nat → Option Source
  | 0 => some .leisureV
  | 1 => some .chassisV
  | 2 => some .auxV
  | 3 => some .netA
  | 4 => some .dischargeA
  | 5 => some .soc
  | 6 => some .battTemp
  | _ => none

/-- The code of a source (R186). -/
def Source.code : Source → Nat
  | .leisureV => 0
  | .chassisV => 1
  | .auxV => 2
  | .netA => 3
  | .dischargeA => 4
  | .soc => 5
  | .battTemp => 6

/-- The lowest threshold of a source, in its step (R61). -/
def Source.thresholdMin : Source → Int
  | .leisureV => 0
  | .chassisV => 0
  | .auxV => 0
  | .netA => -30000
  | .dischargeA => 0
  | .soc => 0
  | .battTemp => -40

/-- The highest threshold of a source, in its step (R61). -/
def Source.thresholdMax : Source → Int
  | .leisureV => 4000
  | .chassisV => 4000
  | .auxV => 4000
  | .netA => 30000
  | .dischargeA => 30000
  | .soc => 200
  | .battTemp => 125

/-- The highest hysteresis of a source, in its step (R61). -/
def Source.hysteresisMax : Source → Nat
  | .leisureV => 1000
  | .chassisV => 1000
  | .auxV => 1000
  | .netA => 5000
  | .dischargeA => 5000
  | .soc => 100
  | .battTemp => 50

/-- The fields lie in the ranges of R61. -/
def WatchDef.valid (d : WatchDef) : Bool :=
  d.source.thresholdMin ≤ d.threshold && d.threshold ≤ d.source.thresholdMax
    && d.hysteresis ≤ d.source.hysteresisMax && d.dwell ≤ 600

/-- A written watch record with the checks of R64 and R186, or `none` when it is BAD_ARG. -/
def watchOfRecord (r : List Byte) : Option (WatchNo × WatchDef) :=
  match r with
  | [n, fl, t1, t0, h1, h0, d1, d0] =>
    match sourceOfCode (fl.toNat / 4) with
    | some source =>
      let d : WatchDef :=
        { enable := fl.toNat % 2 = 1, source := source,
          comparison := if fl.toNat / 2 % 2 = 1 then .above else .below,
          threshold := int16 t1 t0, hysteresis := num16 h1 h0, dwell := num16 d1 d0 }
      if h : 1 ≤ n.toNat ∧ n.toNat ≤ 8 then
        if d.valid then some (⟨n.toNat - 1, by omega⟩, d) else none
      else none
    | none => none
  | _ => none

/-- The 8 bytes of a watch record (R186). -/
def WatchDef.record (d : WatchDef) (n : WatchNo) : List Byte :=
  [byte (n.val + 1), byte (bit d.enable + 2 * bit (d.comparison == .above) + 4 * d.source.code)]
    ++ signed16 d.threshold ++ word16 d.hysteresis ++ word16 d.dwell

/-! ### Settings (R166, R185) -/

/-- No address stands twice in the list; 0 is an unused place (R165, R185). -/
def noRepeats : List Nat → Bool
  | [] => true
  | a :: rest => (a == 0 || !rest.contains a) && noRepeats rest

/-- The settings after a WRITE SETTING, or `none` when it is BAD_ARG (R166, R185). -/
def Settings.write (st : Settings) (code : Byte) (value : List Byte) : Option Settings :=
  match code.toNat, value with
  | 1, [v] => if sourceOk v then some { st with nodeAddress := v.toNat } else none
  | 2, [v] => if sourceOk v then some { st with monitorNode := v.toNat } else none
  | 3, [a, b, c, d] =>
    let places := [a.toNat, b.toNat, c.toNat, d.toNat]
    if places.all (· ≤ 62) && noRepeats places then some { st with managers := places } else none
  | 4, [v] => if 2 ≤ v.toNat ∧ v.toNat ≤ 50 then some { st with answerTimeout := v.toNat } else none
  | 5, [v] => if 1 ≤ v.toNat ∧ v.toNat ≤ 60 then some { st with staleTimeout := v.toNat } else none
  | 6, [v] => if v.toNat ≤ 240 then some { st with holdLifetime := v.toNat } else none
  | 7, [hi, lo] =>
    if 60 ≤ num16 hi lo ∧ num16 hi lo ≤ 300 then some { st with preWarning := num16 hi lo } else none
  | 8, [v] => (modeOfByte v).map fun m => { st with startMode := m }
  | _, _ => none

/-- The value bytes of a setting, or `none` for a code that names none (R166, R185). -/
def Settings.read (st : Settings) (code : Byte) : Option (List Byte) :=
  match code.toNat with
  | 1 => some [byte st.nodeAddress]
  | 2 => some [byte st.monitorNode]
  | 3 => some (st.managers.map byte)
  | 4 => some [byte st.answerTimeout]
  | 5 => some [byte st.staleTimeout]
  | 6 => some [byte st.holdLifetime]
  | 7 => some (word16 st.preWarning)
  | 8 => some [byte st.startMode.code]
  | _ => none

/-- The addresses of the manager list (R165). -/
def Settings.managerList (st : Settings) : List Nat := st.managers.filter (· ≠ 0)

/-! ### The runtime record (R168, R186) -/

/-- The code of an owed command (R186). -/
def owedCode : Option Owed → Nat
  | none => 0
  | some .off => 1
  | some .wind => 2
  | some (.on _ _) => 3
  | some .query => 4

/-- A remaining time in units of `unit` ms rounded up, all ones when the timer does not run (R186). -/
def timerBytes (t : Option Nat) (unit : Nat) : List Byte :=
  word16 (t.elim 65535 fun left => ceilDiv left unit)

/-- The 14 bytes of a runtime record (R186). -/
def Runtime.record (r : Runtime) (held : Bool) (stackIndex : Option Nat) : List Byte :=
  [byte r.state.code, byte (r.level.getD 0), byte (r.prior.getD 0), byte (owedCode r.owed)]
    ++ timerBytes r.minOn 1000 ++ timerBytes r.lockout 1000 ++ timerBytes r.grace 1000
    ++ timerBytes r.answer 100
    ++ [byte (bit r.overdue + 2 * bit r.userOff + 4 * bit held + 8 * bit r.withdrawn),
        byte (stackIndex.getD 255)]

/-! ### METER bodies (R184) -/

/-- The values of a METER body. -/
structure MeterValues where
  current : Int
  soc : Nat
  solar : Bool
  alternator : Bool
  shore : Bool
  temperature : Option Int
deriving DecidableEq, Repr

/-- The first four bytes of a METER body with their checks (R184). -/
def meterBase (c1 c0 soc src : Byte) (t : Option Int) : Option MeterValues :=
  if -30000 ≤ int16 c1 c0 ∧ int16 c1 c0 ≤ 30000 ∧ soc.toNat ≤ 200 ∧ src.toNat < 8 then
    some { current := int16 c1 c0, soc := soc.toNat, solar := src.toNat % 2 = 1,
           alternator := src.toNat / 2 % 2 = 1, shore := src.toNat / 4 % 2 = 1, temperature := t }
  else none

/-- A METER body with its checks (R184). -/
def meterOfBody (body : List Byte) : Option MeterValues :=
  match body with
  | [c1, c0, soc, src] => meterBase c1 c0 soc src none
  | [c1, c0, soc, src, t] =>
    if -40 ≤ t.toInt ∧ t.toInt ≤ 125 then meterBase c1 c0 soc src (some t.toInt) else none
  | _ => none

end Sys2Proof.Machine
end

