-- ==== Sys2Proof/Machine/Ops.lean ====
section
/-! DEFINITION. The named operations every meaning is built of: attention, the lists of frames, replies, the Load Table and its records, the Shed Stack, owed commands and direct outputs, generated reports, the shed order, the converter, doze, and the taking of a received frame. -/

namespace Sys2Proof.Machine

/-! ### Attention (R177, R178) -/

/-- A cause in the announceable set (R178). -/
def CauseFlags.announceable (f : CauseFlags) : Bool := f.pending && f.enabled && !f.inService

/-- The announceable set is empty (R178). -/
def State.calm (s : State) : Bool := s.attention.all fun f => !f.announceable

/-- The causes that pass, cause k in bit k−1 (R185). -/
def State.summary (s : State) (p : CauseFlags → Bool) : Nat :=
  ((List.finRange 15).map fun i => if p s.attention[i] then 2 ^ i.val else 0).sum

/-- Changes the flags of one cause. -/
def State.modifyCause (s : State) (i : Fin 15) (f : CauseFlags → CauseFlags) : State :=
  { s with attention := s.attention.set i (f s.attention[i]) }

/-- An occurrence sets the pending flag and nothing else (R177). -/
def State.setPending (s : State) (c : Cause) : State :=
  s.modifyCause c.index fun f => { f with pending := true }

/-- The part's own node address as a byte (R166). -/
def State.own (s : State) : Byte := byte s.mgmt.settings.nodeAddress

/-- Puts a frame at the end of the reply list. -/
def State.pushReply (s : State) (f : Frame) : State :=
  { s with ports := { s.ports with replies := s.ports.replies ++ [f] } }

/-- The NOTICE for the announceable set as it stands (R178, R185). -/
def State.noticeFrame (s : State) : Frame :=
  { kind := .notice, src := s.own, dst := 0, body := word16 (s.summary CauseFlags.announceable) }

/-- Builds the NOTICE when an event has taken the announceable set from empty, as it was in `before`,
to non-empty. A NOTICE that finds the list full is lost with RELAY_OVERFLOW, which then finds the set
non-empty (R146, R178). -/
def State.announce (s before : State) : State :=
  if before.calm && !s.calm then
    if s.ports.replies.length < Config.replyDepth then s.pushReply s.noticeFrame
    else s.setPending .relayOverflow
  else s

/-- An occurrence of a cause (R177) and the NOTICE it may bring (R178). When one event raises several
causes, the NOTICE is built at the first of them, so its body holds that cause alone (the model's choice,
log entry 43). -/
def State.raise (s : State) (c : Cause) : State := (s.setPending c).announce s

/-! ### The lists of frames (R143, R146) -/

/-- A part-originated frame joins the reply list, or is lost with RELAY_OVERFLOW (R146). -/
def State.joinReply (s : State) (f : Frame) : State :=
  if s.ports.replies.length < Config.replyDepth then s.pushReply f else s.raise .relayOverflow

/-- A frame joins the relay FIFO toward the panel line, or is dropped with RELAY_OVERFLOW (R143). -/
def State.joinPanelFifo (s : State) (f : Frame) : State :=
  if s.ports.panelFifo.length < Config.fifoDepth then
    { s with ports := { s.ports with panelFifo := s.ports.panelFifo ++ [f] } }
  else s.raise .relayOverflow

/-- A frame joins the relay FIFO toward the load line, or is dropped with RELAY_OVERFLOW (R143). -/
def State.joinLoadFifo (s : State) (f : Frame) : State :=
  if s.ports.loadFifo.length < Config.fifoDepth then
    { s with ports := { s.ports with loadFifo := s.ports.loadFifo ++ [f] } }
  else s.raise .relayOverflow

/-- The REPLY to a MANAGE request (R185). -/
def State.manageReply (s : State) (dst code : Byte) (status : Status) (data : List Byte) : Frame :=
  { kind := .reply, src := s.own, dst := dst, body := code :: byte status.code :: data }

/-- The REPLY to a switch request, naming the channel the request used (R128, R185). -/
def State.switchReply (s : State) (requester channel : Nat) (r : SwitchReply) : Frame :=
  { kind := .reply, src := s.own, dst := byte requester,
    body := [0, byte r.codes.1, byte channel, byte r.codes.2] }

/-- Answers a switch request (R128). -/
def State.answerSwitch (s : State) (requester channel : Nat) (r : SwitchReply) : State :=
  s.joinReply (s.switchReply requester channel r)

/-! ### The Load Table and committed draw -/

/-- The live load of a number, if its slot is live (R1). -/
def State.live? (s : State) (n : LoadNo) : Option Live := s.loads.slots[n].live

/-- Replaces a slot. -/
def State.setSlot (s : State) (n : LoadNo) (slot : Slot) : State :=
  { s with loads := { s.loads with slots := s.loads.slots.set n slot } }

/-- Changes the live load of a number, if there is one. -/
def State.modifyLive (s : State) (n : LoadNo) (f : Live → Live) : State :=
  s.setSlot n { s.loads.slots[n] with live := (s.live? n).map f }

/-- Changes the runtime record of a live load by its configuration. -/
def State.changeRun (s : State) (n : LoadNo) (f : LoadConfig → Runtime → Runtime) : State :=
  s.modifyLive n fun l => { l with run := f l.config l.run }

/-- The states counted in committed draw (R23). -/
def LoadState.counted : LoadState → Bool
  | .unknown => true
  | .absent => false
  | .off => false
  | .lockout => false
  | .on => true
  | .winding => true
  | .shed => false
  | .restoring => true

/-- What a slot adds to committed draw (R25). -/
def Slot.draw (slot : Slot) : Nat :=
  match slot.live with
  | some l => if l.run.state.counted then l.config.draw else 0
  | none => 0

/-- Committed draw in 0.1 A (R25, log entry 8). -/
def State.draw (s : State) : Nat := ((List.finRange 48).map fun n => s.loads.slots[n].draw).sum

/-- The live load a module output is the target of; R4 makes it the only one (R9). -/
def State.loadAt (s : State) (node output : Nat) : Option LoadNo :=
  (List.finRange 48).find? fun n =>
    (s.live? n).any fun l => l.config.target == .module node output

/-- A load is cuttable (R16). -/
def State.cuttable (s : State) (c : LoadConfig) : Bool :=
  c.authority == .governed && 1 ≤ c.tier && s.control.mode != .bypass
    && (s.cutTier ≤ c.tier || s.control.mode == .storage)

/-- The cause of a shed that is made because a load is cuttable (R19, R35, R36). -/
def State.shedCause (s : State) (c : LoadConfig) : ShedCause :=
  if s.cutTier ≤ c.tier then .stage s.ladder.active.val else .storage

/-! ### Changes of a runtime record -/

/-- A timer of so many seconds; with 0 s no timer starts (R3, R26, R27). -/
def startTimer (seconds : Nat) : Option Nat := if seconds = 0 then none else some (seconds * 1000)

/-- A decision that takes a load out of UNKNOWN or RESTORING cancels its answer timer (R28). -/
def Runtime.decided (r : Runtime) : Runtime :=
  if r.state = .unknown ∨ r.state = .restoring then { r with answer := none } else r

/-- The load enters ON: min-on starts, the lockout is cancelled, a dimmable load takes the level (R26, R33). -/
def Runtime.enterOn (level : Option Nat) (c : LoadConfig) (r : Runtime) : Runtime :=
  { r with state := .on, minOn := startTimer c.minOn, lockout := none,
           level := if c.dimmable then level else none, prior := none, grace := none,
           overdue := false, userOff := false, withdrawn := false }

/-- The load goes off outside the stack with its lockout started: LOCKOUT, or OFF when min-off is 0 s (R24). -/
def Runtime.goOff (c : LoadConfig) (r : Runtime) : Runtime :=
  { r with state := if c.minOff = 0 then .off else .lockout, lockout := startTimer c.minOff,
           minOn := none, grace := none, level := none, prior := none,
           overdue := false, userOff := false, withdrawn := false }

/-- The load leaves the stack to LOCKOUT while its lockout runs and to OFF otherwise (R24, R91). -/
def Runtime.leaveStack (r : Runtime) : Runtime :=
  { r with state := if r.lockout.isSome then .lockout else .off, grace := none, level := none,
           prior := none, overdue := false, userOff := false }

/-- The load becomes OFF with no lockout (R29, R33, R37, R103). -/
def Runtime.becomeOff (r : Runtime) : Runtime :=
  { r with state := .off, minOn := none, lockout := none, grace := none, level := none,
           prior := none, overdue := false, userOff := false, withdrawn := false }

/-- The load becomes SHED with its lockout started; its prior level is as it stands (R33, R39, R97). -/
def Runtime.becomeShed (c : LoadConfig) (r : Runtime) : Runtime :=
  { r with state := .shed, lockout := startTimer c.minOff, minOn := none, grace := none,
           overdue := false, userOff := false, withdrawn := false }

/-- The load becomes WINDING: no grace timer yet, flags clear (R93). -/
def Runtime.becomeWinding (r : Runtime) : Runtime :=
  { r with state := .winding, minOn := none, lockout := none, grace := none, overdue := false,
           userOff := false, withdrawn := false }

/-- A dimmable load's level becomes its prior level (R33, log entry 10). -/
def Runtime.keepLevel (c : LoadConfig) (r : Runtime) : Runtime :=
  { r with prior := if c.dimmable then r.level else none }

/-- The load becomes ABSENT; its owed command is removed unsent (R29). -/
def Runtime.becomeAbsent (r : Runtime) : Runtime := { (r.becomeOff) with state := .absent, owed := none }

/-- An owed ON takes another level, keeping its age; any other command stays as it is. -/
def Owed.relevel (level : Option Nat) : Owed → Owed
  | .on _ since => .on level since
  | .off => .off
  | .wind => .wind
  | .query => .query

/-- An owed ON carries the recorded level (R186): it follows a change of the level that is not itself a
decision to owe ON (log entry 11). -/
def Runtime.followLevel (r : Runtime) : Runtime := { r with owed := r.owed.map (Owed.relevel r.level) }

/-- The level an ON or LEVEL request gives a load: none unless it is dimmable (R123). -/
def Wish.levelFor (w : Wish) (c : LoadConfig) : Option Nat :=
  if c.dimmable then
    match w with
    | .on => some 100
    | .level n => some n
  else none

/-! ### The Shed Stack and the sequencer -/

/-- Pushes an entry on top (R89). -/
def State.push (s : State) (e : StackEntry) : State :=
  { s with ladder := { s.ladder with stack := e :: s.ladder.stack } }

/-- Takes a load's entry out of the stack; the others keep their order (R91). -/
def State.unstack (s : State) (n : LoadNo) : State :=
  { s with ladder := { s.ladder with stack := s.ladder.stack.filter (·.load != n) } }

/-- Changes a load's entry where it stands. -/
def State.modifyEntry (s : State) (n : LoadNo) (f : StackEntry → StackEntry) : State :=
  { s with ladder := { s.ladder with stack := s.ladder.stack.map fun e => if e.load = n then f e else e } }

/-- Lifts a load's entry to the top with cause LAST_GASP (R89, R90). -/
def State.liftEntry (s : State) (n : LoadNo) : State :=
  match s.ladder.stack.find? (·.load == n) with
  | some e => (s.unstack n).push { e with cause := .lastGasp }
  | none => s

/-- The load stands in the Shed Stack. -/
def State.stacked (s : State) (n : LoadNo) : Bool := s.ladder.stack.any (·.load == n)

/-- The sequencer's state (R105). -/
def State.setSeq (s : State) (q : Sequencer) : State := { s with ladder := { s.ladder with seq := q } }

/-- Starts the stagger timer (R115). -/
def State.startStagger (s : State) : State :=
  s.setSeq (.stagger (s.ladder.live.stagger * 500))

/-- A stagger is at its end: the sequencer is IDLE; in IDLE and RESTORING nothing changes (R105). -/
def State.endStagger (s : State) : State :=
  match s.ladder.seq with
  | .stagger _ => s.setSeq .idle
  | .idle => s
  | .restoring _ => s

/-- The restore of this load has ended: the sequencer goes to STAGGER (R105, R112). -/
def State.restoreEnded (s : State) (n : LoadNo) : State :=
  if s.ladder.seq = .restoring n then s.startStagger else s

/-! ### Owed commands and direct outputs (R30, R32) -/

/-- Sets a load's owed command, replacing any that stands (R30). -/
def State.setOwed (s : State) (n : LoadNo) (o : Option Owed) : State :=
  s.changeRun n fun _ r => { r with owed := o }

/-- The command owed is an ON with this level. -/
def owesOn (level : Option Nat) : Option Owed → Bool
  | some (.on l _) => l == level
  | some .off => false
  | some .wind => false
  | some .query => false
  | none => false

/-- An ON is owed from now (R144). -/
def State.setOwedOn (s : State) (n : LoadNo) (level : Option Nat) : State :=
  let owing := s.setOwed n (some (.on level s.loads.decisions))
  { owing with loads := { owing.loads with decisions := s.loads.decisions + 1 } }

/-- A decision owes ON: the same kind and level as already owed is left as it is, otherwise it counts
from now (R30, R144). -/
def State.oweOn (s : State) (n : LoadNo) (level : Option Nat) : State :=
  if owesOn level ((s.live? n).bind (·.run.owed)) then s else s.setOwedOn n level

/-- A QUERY does not replace another owed command (R30). -/
def State.oweQuery (s : State) (n : LoadNo) : State :=
  s.changeRun n fun _ r => { r with owed := some (r.owed.getD .query) }

/-- Drives a direct output (R21). -/
def State.setOutput (s : State) (d : Fin 4) (on : Bool) : State :=
  { s with loads := { s.loads with outputs := s.loads.outputs.set d on } }

/-- The target of a live load. -/
def State.target? (s : State) (n : LoadNo) : Option Target := (s.live? n).map (·.config.target)

/-- OFF is owed for a module target; a direct output is driven off (R30, R32). -/
def State.commandOff (s : State) (n : LoadNo) : State :=
  match s.target? n with
  | some (.module _ _) => s.setOwed n (some .off)
  | some (.direct d) => s.setOutput d false
  | none => s

/-- ON with a level is owed for a module target; a direct output is driven on (R30, R32). -/
def State.commandOn (s : State) (n : LoadNo) (level : Option Nat) : State :=
  match s.target? n with
  | some (.module _ _) => s.oweOn n level
  | some (.direct d) => s.setOutput d true
  | none => s

/-! ### Reports toward the panel line (R43, R44) -/

/-- The Hold Queue holds a request for the load (R129). -/
def State.isHeld (s : State) (n : LoadNo) : Bool := s.hold.any (·.load == n)

/-- The STATE frame of a report, with the governed-state note as things stand (R43, R183). -/
def State.reportFrame (s : State) (n : LoadNo) (l : Live) (kind level : Nat) : Frame :=
  { kind := .state, src := s.own, dst := 0,
    body := [byte l.config.homeChannel, byte kind, byte level, byte l.run.state.code,
             byte (bit (s.isHeld n) + 2 * bit l.run.overdue)] }

/-- The report the part generates for a direct output (R44). -/
def State.generatedReport (s : State) (n : LoadNo) (l : Live) (d : Fin 4) : Frame :=
  if s.loads.outputs[d] then
    s.reportFrame n l 1 (if l.run.state = .on then l.run.level.getD 0 else 0)
  else s.reportFrame n l 2 0

/-- Generates the report of a direct load whose state or level differs from what it was (R44, log entry
13). -/
def State.reportDirect (s : State) (n : LoadNo) (before : Runtime) : State :=
  match s.live? n with
  | some l =>
    match l.config.target with
    | .direct d =>
      if l.run.state ≠ before.state ∨ l.run.level ≠ before.level then
        s.joinReply (s.generatedReport n l d)
      else s
    | .module _ _ => s
  | none => s

/-- The load-line SWITCH the part builds (R183). -/
def State.loadSwitch (s : State) (node output code : Nat) (level : Option Nat) : Frame :=
  { kind := .switch, src := s.own, dst := byte node,
    body := byte output :: byte code :: (level.map byte).toList }

/-! ### Shed order (R81) -/

/-- One load comes before another in the shed order (R81). -/
def shedBefore (c : LoadConfig) (n : LoadNo) (c' : LoadConfig) (n' : LoadNo) : Bool :=
  c'.tier < c.tier || (c'.tier == c.tier && (c'.draw < c.draw || (c'.draw == c.draw && n' < n)))

/-- Puts a load into a list kept in shed order. -/
def insertShed (n : LoadNo) (c : LoadConfig) : List (LoadNo × LoadConfig) → List (LoadNo × LoadConfig)
  | [] => [(n, c)]
  | (m, d) :: rest => if shedBefore c n d m then (n, c) :: (m, d) :: rest else (m, d) :: insertShed n c rest

/-- A load the test names enters the sorted list. -/
def State.sortIn (s : State) (p : Live → Bool) (sorted : List (LoadNo × LoadConfig)) (n : LoadNo) :
    List (LoadNo × LoadConfig) :=
  match s.live? n with
  | some l => if p l then insertShed n l.config sorted else sorted
  | none => sorted

/-- The live loads that pass, in shed order (R81). -/
def State.inShedOrder (s : State) (p : Live → Bool) : List LoadNo :=
  ((List.finRange 48).foldl (s.sortIn p) []).map (·.1)

/-! ### Hold Queue entries -/

/-- The entry held for a load (R129). -/
def State.heldFor (s : State) (n : LoadNo) : Option Held := s.hold.find? (·.load == n)

/-- Removes a load's entry; those behind it move up (R129). -/
def State.unhold (s : State) (n : LoadNo) : State :=
  { s with hold := s.hold.filter (·.load != n) }

/-- Removes a load's entry, if it has one, and answers its requester (R134). -/
def State.decideHeld (s : State) (n : LoadNo) (r : SwitchReply) : State :=
  match s.heldFor n with
  | some h => (s.unhold n).answerSwitch h.requester h.channel r
  | none => s

/-- Withdraws the held requests that pass, oldest first (R134). -/
def State.withdrawHeld (s : State) (p : Held → Bool) (r : WithdrawReason) : State :=
  (s.hold.filter p).foldl (fun s h => s.decideHeld h.load (.withdrawn r)) s

/-! ### The converter and doze (R47, R48, R157) -/

/-- The converter takes its next conversion, when it is free (R48). -/
def State.converterNext (s : State) : State :=
  match s.sense.converting with
  | some _ => s
  | none =>
    match s.sense.slot with
    | some { requester := q, input := i, begun := false } =>
      { s with sense := { s.sense with
          converting := some { input := i, forRequest := true },
          slot := some { requester := q, input := i, begun := true } } }
    | _ =>
      match s.sense.round with
      | some (i :: rest) =>
        { s with sense := { s.sense with
            converting := some { input := i, forRequest := false }, round := some rest } }
      | _ => s

/-- The scan interval as doze stands (R47). -/
def State.scanInterval (s : State) : Nat := if s.control.doze then Config.dozeScanMs else Config.scanMs

/-- A round with its four inputs to convert, and the interval from its beginning (R47). -/
def State.startRound (s : State) : State :=
  { s with sense := { s.sense with
      round := some [.leisure, .chassis, .aux, .supply], scanTimer := some s.scanInterval,
      roundOwed := false } }

/-- A scan round begins, and its first conversion if the converter is free (R47). -/
def State.beginRound (s : State) : State := s.startRound.converterNext

/-- A round is owed when the one in progress finishes (R47). -/
def State.oweRound (s : State) : State := { s with sense := { s.sense with roundOwed := true } }

/-- A round begins now, or when the one in progress finishes (R47). -/
def State.roundDue (s : State) : State :=
  match s.sense.round with
  | none => s.beginRound
  | some _ => s.oweRound

/-- Doze is off. -/
def State.wake (s : State) : State := { s with control := { s.control with doze := false } }

/-- Doze ends, if it is on (R47, R157). -/
def State.endDoze (s : State) : State := if s.control.doze then s.wake.roundDue else s

/-- The quiet timer starts at 60 s (R157). -/
def State.startQuiet (s : State) : State :=
  { s with control := { s.control with quiet := some Config.quietMs } }

/-- A frame received whole: doze ends and the quiet timer restarts, in STORAGE (R137, R157). -/
def State.lineActivity (s : State) : State :=
  if s.control.mode = .storage then s.endDoze.startQuiet else s

/-! ### Taking a received frame (R137 to R140) -/

/-- The part is held in a power-on, brown-out or reset-line reset (R162). -/
def State.inResetHold (s : State) : Bool := s.control.supplyHold || s.control.lineHold

/-- The Node Side Table's entry for an address (R138). -/
def State.side (s : State) (node : Nat) : NodeSide := (s.sides[node - 1]?).getD .unseen

/-- The side of a line (R138). -/
def Line.side : Line → NodeSide
  | .panel => .panel
  | .load => .load

/-- Sets an entry of the Node Side Table (R138). -/
def State.setSide (s : State) (node : Nat) (side : NodeSide) : State :=
  { s with sides := s.sides.setIfInBounds (node - 1) side }

/-- Learns the source of a good frame; a change of side raises NODE_CONFLICT (R138). -/
def State.learn (s : State) (line : Line) (src : Nat) : State :=
  if s.side src = .unseen ∨ s.side src = Line.side line then s.setSide src (Line.side line)
  else (s.setSide src (Line.side line)).raise .nodeConflict

/-- Takes a frame received whole: line activity, the port's address and length checks, the
own-address check and learning, and then what the frame itself does (R137, R138, R139; the order is read
from those rules, log entry 36). That the round which the end of doze begins takes an idle converter before
the request of a SENSE frame does is the model's choice (R47, R48, R157; log entry 48). -/
def State.takeFrame (s : State) (line : Line) (src dst : Byte) (length : Nat) (k : State → State) : State :=
  if s.inResetHold then s
  else
    let s := s.lineActivity
    if !(sourceOk src && destinationOk dst) || Config.bodyMax < length then s.raise .lineError
    else if src = s.own then s.raise .nodeConflict
    else k (s.learn line src.toNat)

/-! ### Free orders (log entry 5) -/

/-- Counts one more order or value taken from the free values. -/
def State.chosen (s : State) : State := { s with choices := s.choices + 1 }

/-- Two blocks take an event in an order the manual leaves open (R116, R158). -/
def State.eitherOrder (s : State) (f g : State → State) : State :=
  if Config.takesFirst s.choices then g (f s.chosen) else f (g s.chosen)

end Sys2Proof.Machine
end

