-- ==== Sys2Proof/Machine/Restore.lean ====
section
/-! DEFINITION. Restoration: eligibility (R106, R107), the scan (R108, R109), the restore of a module load and of a direct load (R110, R111), and the held request it decides (R133). -/

namespace Sys2Proof.Machine

/-- What the cause of an entry adds to its eligibility (R107). -/
def State.causeAllows (s : State) (cause : ShedCause) (draw : Nat) : Bool :=
  match cause with
  | .stage _ => true
  | .lastGasp => true
  | .storage => false
  | .budget =>
    match s.meter.discharge with
    | some d => !s.meter.stale && !s.ladder.overHigh && d + draw ≤ s.ceiling
    | none => false

/-- A Shed Stack entry is eligible (R106). -/
def State.eligible (s : State) (e : StackEntry) : Bool :=
  match s.live? e.load with
  | none => false
  | some l =>
    s.control.mode == .governing && l.config.tier < s.cutTier && l.config.restoreAuto
      && l.run.state == .shed && l.run.lockout.isNone
      && s.draw + l.config.draw ≤ s.ceiling && s.causeAllows e.cause l.config.draw

/-- The first eligible entry from the top (R109). -/
def State.nextRestore (s : State) : Option StackEntry := s.ladder.stack.find? s.eligible

/-- A load takes another level while on or coming on: the level is recorded and ON owed with it, or a
direct load reports it (R122, R133). -/
def State.relevel (s : State) (n : LoadNo) (level : Option Nat) : State :=
  match s.live? n with
  | some l =>
    ((s.changeRun n fun _ r => { r with level := level }).commandOn n level).reportDirect n l.run
  | none => s

/-- A held LEVEL for a dimmable load replaces the level being restored to (R133). -/
def State.takeHeldLevel (s : State) (n : LoadNo) (c : LoadConfig) : Wish → State
  | .on => s
  | .level m => if c.dimmable then s.relevel n (some m) else s

/-- A restore decides the held request of its load: GRANTED, with a held LEVEL taken (R133). -/
def State.grantByRestore (s : State) (n : LoadNo) : State :=
  match s.heldFor n, s.live? n with
  | some h, some l => (s.decideHeld n .granted).takeHeldLevel n l.config h.wish
  | _, _ => s

/-- The runtime record of a load whose restore begins (R110): no time limit runs until its ON starts. -/
def Runtime.beginRestore (level : Option Nat) (r : Runtime) : Runtime :=
  { r with state := .restoring, level := level, prior := none, lockout := none, answer := none,
           withdrawn := false }

/-- The entry is popped and its load restored: a module load becomes RESTORING and owes ON (R110), a
direct load comes on at once and the stagger starts (R111). -/
def State.restore (s : State) (e : StackEntry) : State :=
  match s.live? e.load with
  | none => s
  | some l =>
    let level := if l.config.dimmable then e.prior else none
    let s := s.unstack e.load
    match l.config.target with
    | .module _ _ =>
      (((s.changeRun e.load fun _ r => r.beginRestore level).oweOn e.load level).setSeq
        (.restoring e.load)).grantByRestore e.load
    | .direct d =>
      ((((s.changeRun e.load (Runtime.enterOn level)).setOutput d true).startStagger).reportDirect
        e.load l.run).grantByRestore e.load

/-- A scan restores the first eligible entry, if there is one (R109). -/
def State.scan (s : State) : State :=
  match s.nextRestore with
  | some e => s.restore e
  | none => s

/-- A scan event: it causes a scan only while the sequencer is IDLE (R105, R108). -/
def State.scanEvent (s : State) : State := if s.ladder.seq = .idle then s.scan else s

end Sys2Proof.Machine
end

