-- ==== Sys2Proof/Machine/Admission.lean ====
section
/-! DEFINITION. Admission: the checks (R120, R124), forwarding (R122, R123, R143), holding (R121), replay (R131, R132), and the hand-over of events to the Ladder Controller and the Admission Unit (R25, R116). -/

namespace Sys2Proof.Machine

/-! ### The checks -/

/-- The check that decides a request for a load (R120), check 1 aside. -/
inductive Verdict where
  | pass
  | forced
  | notReady
  | absent
  | running
  | winding
  | stored
  | staged
  | locked
  | overBudget
  | grant
deriving DecidableEq, Repr

/-- Checks 2 to 12, or 2 and 3 in BYPASS, against the part as it stands (R120, R124). -/
def State.judge (s : State) (l : Live) : Verdict :=
  if l.config.authority = .pass then .pass
  else if l.config.authority = .forcedOff then .forced
  else if s.control.mode = .bypass then
    if l.run.state = .on ∨ l.run.state = .restoring then .running else .grant
  else if l.run.state = .unknown then .notReady
  else if l.run.state = .absent then .absent
  else if l.run.state = .on ∨ l.run.state = .restoring then .running
  else if l.run.state = .winding then .winding
  else if s.control.mode = .storage ∧ 1 ≤ l.config.tier then .stored
  else if s.cutTier ≤ l.config.tier then .staged
  else if l.run.state = .lockout ∨ (l.run.state = .shed ∧ l.run.lockout.isSome) then .locked
  else if s.ceiling < s.draw + l.config.draw then .overBudget
  else .grant

/-! ### Forwarding -/

/-- The command code and level an untouched forward carries (R143, R183). -/
def Wish.wire : Wish → Nat × Option Nat
  | .on => (1, none)
  | .level n => (2, some n)

/-- A direct output acts at once on an ON or LEVEL (R32, R123). -/
def State.directOn (s : State) (n : LoadNo) (d : Fin 4) (w : Wish) : State :=
  match s.live? n with
  | some l =>
    let s := s.changeRun n fun c r =>
      if r.state = .on then { r with level := if c.dimmable then w.levelFor c else none }
      else (r.enterOn (w.levelFor c) c)
    ((s.unstack n).setOutput d true).reportDirect n l.run
  | none => s

/-- The forward of an ON or LEVEL untouched for a PASS load (R123, R143). -/
def State.forwardPass (s : State) (n : LoadNo) (w : Wish) : State :=
  match s.target? n with
  | some (.module node out) => s.joinLoadFifo (s.loadSwitch node out w.wire.1 w.wire.2)
  | some (.direct d) => s.directOn n d w
  | none => s

/-- Check 12: the load is switched on, out of the stack if it stands there (R123, R124). -/
def State.switchOn (s : State) (n : LoadNo) (w : Wish) : State :=
  match s.live? n with
  | some l =>
    let level := w.levelFor l.config
    (((s.unstack n).changeRun n fun c r => (r.decided.enterOn level c)).commandOn n level).reportDirect n l.run
  | none => s

/-- Check 6 for an ON load: it stays ON and owes ON with the request's level (R122). -/
def State.forwardToOn (s : State) (n : LoadNo) (w : Wish) : State :=
  match s.live? n with
  | some l => s.relevel n (w.levelFor l.config)
  | none => s

/-! ### Replay -/

/-- One entry of a replay, judged as its request would be judged now (R132). A PASS load's requester has
already been answered when the request is forwarded untouched (R143, log entry 39). -/
def State.replayEntry (s : State) (h : Held) : State :=
  match s.live? h.load with
  | none => s
  | some l =>
    match s.judge l with
    | .pass => ((s.unhold h.load).answerSwitch h.requester h.channel .granted).forwardPass h.load h.wish
    | .forced => s.decideHeld h.load (.withdrawn .forced)
    | .absent => s.decideHeld h.load (.withdrawn .absent)
    | .stored => s.decideHeld h.load (.withdrawn .storage)
    | .grant => ((s.unhold h.load).switchOn h.load h.wish).answerSwitch h.requester h.channel .granted
    | .notReady => s
    | .running => s
    | .winding => s
    | .staged => s
    | .locked => s
    | .overBudget => s

/-- The queue once, from the oldest entry to the newest (R132). -/
def State.replay (s : State) : State := s.hold.foldl State.replayEntry s

/-- A replay event: the replay is made only while the sequencer is IDLE and nothing is eligible (R116, R131). -/
def State.replayEvent (s : State) : State :=
  if s.ladder.seq = .idle ∧ s.nextRestore = none then s.replay else s

/-! ### Events handed to both blocks -/

/-- An event reaches the restore sequencer, the Admission Unit or both; both may take it in either
order (R116). A replay event on an empty queue does nothing (R131). -/
def State.blocksTake (s : State) (scan replay : Bool) : State :=
  match scan, replay && !s.hold.isEmpty with
  | true, true => s.eitherOrder State.scanEvent State.replayEvent
  | true, false => s.scanEvent
  | false, true => s.replayEvent
  | false, false => s

/-- A committed-draw decrease is reported to both blocks (R25). -/
def State.drawFell (s : State) : State := s.blocksTake true true

/-- The decrease is reported if the sum fell from what it was (R25). -/
def State.reportDraw (s before : State) : State := if s.draw < before.draw then s.drawFell else s

/-- The loads whose part of committed draw has fallen since `before`. -/
def State.fallen (s before : State) : List LoadNo :=
  (List.finRange 48).filter fun n => s.loads.slots[n].draw < before.loads.slots[n].draw

/-- Every fall of committed draw since `before`, one for each load, is reported in its turn (R25). -/
def State.reportFalls (s before : State) (report : State → State) : State :=
  (s.fallen before).foldl (fun t _ => report t) s

/-- A lockout expiry is reported: a scan event for a stacked load, a replay event for a held request (R27). -/
def State.reportLockout (s : State) (n : LoadNo) : State := s.blocksTake (s.stacked n) (s.isHeld n)

/-! ### Requests from the panel line -/

/-- The load's entry takes a newer request in its place, keeping position and lifetime (R121). -/
def State.replaceHeld (s : State) (n : LoadNo) (src ch : Nat) (w : Wish) : State :=
  { s with hold := s.hold.map fun h : Held =>
      if h.load = n then { h with requester := src, channel := ch, wish := w } else h }

/-- The lifetime a new entry starts with; a setting of 0 gives none (R130). -/
def State.newLifetime (s : State) : Option Nat :=
  if s.mgmt.settings.holdLifetime = 0 then none else some (s.mgmt.settings.holdLifetime * 60000)

/-- A new entry at the end of the queue (R121, R130). -/
def State.appendHeld (s : State) (n : LoadNo) (src ch : Nat) (w : Wish) : State :=
  { s with hold := s.hold ++ [{ load := n, requester := src, channel := ch, wish := w,
                                lifetime := s.newLifetime }] }

/-- The outcome "hold" (R121): a new entry, a replacement in place, or a refusal with its reason. -/
def State.holdOrRefuse (s : State) (n : LoadNo) (l : Live) (src ch : Nat) (w : Wish)
    (reason : RefuseReason) : State :=
  if l.config.hold then
    match s.heldFor n with
    | some old =>
      ((s.replaceHeld n src ch w).answerSwitch old.requester old.channel (.withdrawn .replaced)).answerSwitch src ch .held
    | none =>
      if s.hold.length < Config.holdDepth then
        (s.appendHeld n src ch w).answerSwitch src ch .held
      else (s.answerSwitch src ch (.refused .holdFull)).raise .holdFull
  else s.answerSwitch src ch (.refused reason)

/-- Check 6 (R122): a level change is forwarded, an ON of a RESTORING load absorbed. -/
def State.requestRunning (s : State) (n : LoadNo) (l : Live) (src ch : Nat) (w : Wish) : State :=
  if l.run.state = .on then s.forwardToOn n w
  else
    match w with
    | .on => s.answerSwitch src ch .absorbed
    | .level _ =>
      if l.config.dimmable then s.relevel n (w.levelFor l.config) else s.answerSwitch src ch .absorbed

/-- An ON or LEVEL request for a mapped channel is decided (R120 to R125). -/
def State.decideRequest (s : State) (n : LoadNo) (l : Live) (src ch : Nat) (w : Wish) : State :=
  match s.judge l with
  | .pass => (s.forwardPass n w).decideHeld n (.withdrawn .replaced)
  | .forced => s.answerSwitch src ch (.refused .forced)
  | .notReady => s.answerSwitch src ch (.refused .notReady)
  | .absent => s.answerSwitch src ch (.refused .absent)
  | .running => s.requestRunning n l src ch w
  | .winding => s.holdOrRefuse n l src ch w .shed
  | .stored => s.answerSwitch src ch (.refused .stored)
  | .staged => s.holdOrRefuse n l src ch w .shed
  | .locked => s.holdOrRefuse n l src ch w .lockout
  | .overBudget => s.holdOrRefuse n l src ch w .budget
  | .grant => (s.switchOn n w).decideHeld n (.withdrawn .replaced)

/-- The load a channel is mapped to, with its live record (R7). -/
def State.mapped (s : State) (ch : Nat) : Option (LoadNo × Live) :=
  match (s.loads.map[ch]?).join with
  | some n => (s.live? n).map fun l => (n, l)
  | none => none

/-- A request taken by the Admission Unit (R119): NOT_READY in STARTING, UNMAPPED by check 1. -/
def State.takeRequest (s : State) (src ch : Nat) (act : LoadNo → Live → State) : State :=
  if s.control.mode = .starting then s.answerSwitch src ch (.refused .notReady)
  else
    match s.mapped ch with
    | none => s.answerSwitch src ch (.refused .unmapped)
    | some (n, l) => act n l

/-- A load leaves the Shed Stack to LOCKOUT or OFF by R24 (R91). -/
def State.leaveStack (s : State) (n : LoadNo) : State :=
  (s.unstack n).changeRun n fun _ r => r.leaveStack

/-- The forward of an OFF, by the load's state (R33, R127). -/
def State.forwardOff (s : State) (n : LoadNo) (l : Live) (src ch : Nat) : State :=
  match l.run.state with
  | .winding => (s.changeRun n fun _ r => { r with userOff := true }).answerSwitch src ch .absorbed
  | .on => (s.changeRun n Runtime.goOff).commandOff n
  | .shed => (s.leaveStack n).commandOff n
  | .restoring => (s.changeRun n fun _ r => { r with withdrawn := true }).commandOff n
  | .off => s.commandOff n
  | .lockout => s.commandOff n
  | .unknown => s.commandOff n
  | .absent => s.commandOff n

/-- An OFF for a mapped channel: any held request is withdrawn, and the OFF forwarded or absorbed
(R126, R127); untouched for a PASS load on a module (R123, R143). -/
def State.decideOff (s : State) (n : LoadNo) (l : Live) (src ch : Nat) : State :=
  let s := s.decideHeld n (.withdrawn .cancelled)
  match l.config.authority, l.config.target with
  | .pass, .module node out => s.joinLoadFifo (s.loadSwitch node out 3 none)
  | _, _ => ((s.forwardOff n l src ch).reportDirect n l.run).reportDraw s

end Sys2Proof.Machine
end

