-- ==== Sys2Proof/Machine/Ladder.lean ====
section
/-! DEFINITION. The Shed Ladder: sheds and re-sheds (R82 to R84, R93), last gasp (R90, R102, R158), OVER and budget sheds (R85 to R87), the evaluation, escalation and leaving of stages (R75 to R78), the recompute (R72, R80), and what a condition change brings about (R66, R67). -/

namespace Sys2Proof.Machine

/-! ### Shedding one load -/

/-- The entry a shed pushes: a dimmable load keeps its level as prior level (R82). -/
def Live.entry (l : Live) (n : LoadNo) (cause : ShedCause) : StackEntry :=
  { load := n, cause := cause, prior := if l.config.dimmable then l.run.level else none }

/-- A withdrawn restore found by a shed: the load becomes OFF, owes OFF, and is not pushed (R84, R90). -/
def State.dropWithdrawn (s : State) (n : LoadNo) : State :=
  (s.changeRun n fun _ r => r.decided.becomeOff).commandOff n

/-- The load is GOVERNED, of tier 1 or above, and ON or RESTORING. -/
def Live.sheddable (l : Live) : Bool :=
  l.config.authority == .governed && 1 ≤ l.config.tier
    && (l.run.state == .on || l.run.state == .restoring)

/-- The record and stack after one shed with a cause (R82, R84, R93). -/
def State.shedRecord (s : State) (n : LoadNo) (l : Live) (cause : ShedCause) : State :=
  if l.run.state = .restoring ∧ l.run.withdrawn = true then s.dropWithdrawn n
  else
    match l.config.method with
    | .wind _ _ =>
      ((s.changeRun n fun c r => (r.keepLevel c).decided.becomeWinding).setOwed n (some .wind)).push
        (l.entry n cause)
    | .cut =>
      if l.config.restoreAuto then
        ((s.changeRun n fun c r => ((r.keepLevel c).decided.becomeShed c)).commandOff n).push
          (l.entry n cause)
      else (s.changeRun n fun c r => (r.decided.goOff c)).commandOff n

/-- One shed of a load that can be shed, with the end of its restore and its report (R82, R84). -/
def State.shedOne (s : State) (n : LoadNo) (cause : ShedCause) : State :=
  match s.live? n with
  | none => s
  | some l =>
    if l.sheddable then ((s.shedRecord n l cause).restoreEnded n).reportDirect n l.run else s

/-- One shed, with its committed-draw decrease reported (R25, R82). -/
def State.shed (s : State) (cause : ShedCause) (n : LoadNo) : State := (s.shedOne n cause).reportDraw s

/-- The loads of a stage shed at the active stage, in shed order; none in BYPASS (R83). -/
def State.stageSet (s : State) : List LoadNo :=
  s.inShedOrder fun l => s.control.mode != .bypass && s.cutTier ≤ l.config.tier && l.sheddable

/-- The stage sheds of the active stage (R83). -/
def State.stageSheds (s : State) : State :=
  s.stageSet.foldl (State.shed · (.stage s.ladder.active.val) ·) s

/-- Whether ENFORCED is to be raised for a sweep of these loads (R72, R153, R154, log entry 21). -/
def State.enforcedFor (s : State) (swept : List LoadNo) : State :=
  if swept.isEmpty then s else s.raise .enforced

/-! ### Last gasp -/

/-- Last gasp takes the load: GOVERNED, of tier 1 or above, and ON, RESTORING or WINDING (R90). -/
def Live.gaspable (l : Live) : Bool :=
  l.config.authority == .governed && 1 ≤ l.config.tier
    && (l.run.state == .on || l.run.state == .restoring || l.run.state == .winding)

/-- The record and stack after last gasp's cut of one load (R90, R102). -/
def State.gaspRecord (s : State) (n : LoadNo) (l : Live) : State :=
  if l.run.state = .restoring ∧ l.run.withdrawn = true then s.dropWithdrawn n
  else if l.run.state = .winding then
    ((s.changeRun n Runtime.becomeShed).commandOff n).liftEntry n
  else
    ((s.changeRun n fun c r => ((r.keepLevel c).decided.becomeShed c)).commandOff n).push
      (l.entry n .lastGasp)

/-- One load cut by last gasp (R90, R102). -/
def State.gaspOne (s : State) (n : LoadNo) : State :=
  match s.live? n with
  | none => s
  | some l =>
    if l.gaspable then ((s.gaspRecord n l).restoreEnded n).reportDirect n l.run else s

/-- The loads last gasp cuts, in shed order (R90). -/
def State.gaspSet (s : State) : List LoadNo := s.inShedOrder Live.gaspable

/-- The cuts of last gasp, so that every GOVERNED load of tier 1 or above ends off (R90, R158). The
decreases they make are reported when last gasp is whole, and at a rise of LAST when the evaluation is too
(R25; the model's choice, log entry 9). -/
def State.gaspCuts (s : State) : State := s.gaspSet.foldl State.gaspOne s

/-- Last gasp, made in GOVERNING and STORAGE; LAST_GASP is raised in every mode (R158). -/
def State.lastGasp (s : State) : State :=
  (if s.control.mode = .governing ∨ s.control.mode = .storage then s.gaspCuts else s).raise .lastGasp

/-! ### OVER -/

/-- The overrun judgement (R85). -/
def State.judgeOverrun (s : State) : State :=
  match s.meter.discharge with
  | some d =>
    if s.meter.stale = false ∧ s.ceiling < d then
      { s with ladder := { s.ladder with
          overrun := some (s.ladder.overrun.getD (s.ladder.live.overrunDwell * 1000)) } }
    else { s with ladder := { s.ladder with overrun := none, overHigh := false } }
  | none => { s with ladder := { s.ladder with overrun := none, overHigh := false } }

/-- The loads a budget shed may take, in shed order (R87). -/
def State.budgetVictims (s : State) : List LoadNo :=
  s.inShedOrder fun l => l.config.authority == .governed && 1 ≤ l.config.tier
    && l.run.state == .on && l.run.minOn.isNone

/-- A budget shed is attempted in GOVERNING and STORAGE; without a victim BUDGET_STUCK is raised (R87). -/
def State.budgetShed (s : State) : State :=
  if s.control.mode = .governing ∨ s.control.mode = .storage then
    match s.budgetVictims with
    | n :: _ => s.shed .budget n
    | [] => s.raise .budgetStuck
  else s

/-! ### Selecting the active stage -/

/-- The exit pattern of the active stage; stage 0 has none (R75, R77). -/
def State.exitPattern (s : State) : Pattern := s.ladder.live.exit s.ladder.active

/-- The exit-dwell timer starts, or continues if it runs (R77). -/
def State.startExitDwell (s : State) : State :=
  { s with ladder := { s.ladder with
      exitDwell := some (s.ladder.exitDwell.getD (s.ladder.live.exitDwell s.ladder.active * 1000)) } }

/-- The exit-dwell timer is cancelled (R77). -/
def State.stopExitDwell (s : State) : State :=
  { s with ladder := { s.ladder with exitDwell := none } }

/-- The judgement after a change of stage: the exit pattern on levels alone (R77). -/
def State.judgeNewExit (s : State) : State :=
  if s.exitPattern.onLevels s.word then s.startExitDwell else s

/-- Another stage is active, with no exit-dwell timer (R76, R78). -/
def State.setStage (s : State) (i : Fin 8) : State :=
  { s with ladder := { s.ladder with active := i, exitDwell := none } }

/-- A stage change is handed to the restore sequencer and the Admission Unit (R79). -/
def State.stageChanged (s : State) : State := s.blocksTake true true

/-- Escalation (R76). -/
def State.escalate (s : State) (i : Fin 8) : State :=
  ((((s.setStage i).raise .stageChange).stageSheds).judgeOverrun).judgeNewExit.stageChanged

/-- The stage the ladder leaves the active stage for (R78). -/
def State.lowerStage (s : State) : Fin 8 :=
  highestStage fun i => i < s.ladder.active && s.ladder.live.enabled i
    && (s.ladder.live.entry i).onLevels s.word

/-- The active stage is left (R78). -/
def State.leaveStage (s : State) : State :=
  (((s.setStage s.lowerStage).raise .stageChange).judgeOverrun).judgeNewExit.stageChanged

/-- The escalation candidate at an evaluation (R76); 0 when there is none. -/
def State.candidate (s : State) (c : Change) : Fin 8 :=
  highestStage fun i => s.ladder.active < i && s.ladder.live.enabled i
    && (s.ladder.live.entry i).satisfied s.word c

/-- The exit pattern of the active stage is judged at an evaluation (R77). -/
def State.judgeExit (s : State) (c : Change) : State :=
  if s.exitPattern.satisfied s.word c then
    if s.exitPattern.edgeHolds s.word c then s.leaveStage else s.startExitDwell
  else s.stopExitDwell

/-- An evaluation of the ladder (R75). -/
def State.evaluate (s : State) (c : Change) : State :=
  if s.candidate c = 0 then s.judgeExit c else s.escalate (s.candidate c)

/-- The expiry of the exit-dwell timer: an evaluation that leaves the stage unless it escalates (R77). -/
def State.exitExpired (s : State) : State :=
  let s := s.stopExitDwell
  if s.candidate .none = 0 then s.leaveStage else s.escalate (s.candidate .none)

/-! ### Condition changes -/

/-- Mode Control ends doze on a condition change (R67, R157). -/
def State.changeEndsDoze (s : State) : State := if s.control.doze then s.endDoze.startQuiet else s

/-- The evaluation of a condition change, with the overrun judgement of one that contains C8 (R85). -/
def State.evaluateChange (s : State) (c : Change) : State :=
  if c.rose 8 || c.fell 8 then (s.evaluate c).judgeOverrun else s.evaluate c

/-- OVER's change comes back as a condition change of its own (R67, R86). -/
def overFall : Change := { rises := 0, falls := 1#12 <<< 10 }

/-- The rise of OVER as a condition change (R86). -/
def overRise : Change := { rises := 1#12 <<< 10, falls := 0 }

/-- If OVER has fallen since `before`, its fall is taken: an evaluation, and a scan event for the
sequencer, in an order the manual leaves open (R86, R108, log entry 20). -/
def State.takeOverFall (s before : State) : State :=
  if before.ladder.overHigh && !s.ladder.overHigh then
    let s := s.changeEndsDoze
    if s.ladder.stack.isEmpty then s.evaluate overFall
    else s.eitherOrder (State.evaluate · overFall) State.scanEvent
  else s

/-- Acts while the reports to the restore sequencer and the Admission Unit wait: an IDLE sequencer shows a
stagger, so that nothing is scanned or replayed until it is over (R105, R131; log entry 9). -/
def State.unscanned (s : State) (act : State → State) : State :=
  if s.ladder.seq = .idle then (act (s.setSeq (.stagger 0))).endStagger else act s

/-- The two takings of a rise of LAST where last gasp is made: the evaluation and last gasp, in either
order, while the reports they give rise to wait. In either order every GOVERNED load of tier 1 or above is
off at their end, and committed draw is the same (R158). -/
def State.takeRise (s : State) (c : Change) : State :=
  s.unscanned fun t => t.eitherOrder (State.evaluateChange · c) State.lastGasp

/-- The stage change since `before` is handed over, if there is one (R79). -/
def State.reportStage (s before : State) : State :=
  if s.ladder.active = before.ladder.active then s else s.stageChanged

/-- A rise of LAST (R158). Where last gasp is made, each decrease and then the stage change is reported
when the two takings are over, as the scan event and replay event it always is (R25, R79, R108, R131); that
the reports wait for both takings is the model's choice, log entry 9. -/
def State.lastRises (s : State) (c : Change) : State :=
  if s.control.mode = .governing ∨ s.control.mode = .storage then
    ((s.takeRise c).reportFalls s State.drawFell).reportStage s
  else s.eitherOrder (State.evaluateChange · c) State.lastGasp

/-- The condition change an event has made since `before`, if any, reaches the Ladder Controller and
Mode Control; a rise of LAST brings last gasp (R66, R67, R158). -/
def State.takeChange (s before : State) : State :=
  let c := Change.between before.word s.word
  if c.isNone then s
  else
    let s := s.changeEndsDoze
    (if c.rose 11 then s.lastRises c else s.evaluateChange c).takeOverFall before

/-- A BUDGET entry stands in the stack (R108). -/
def State.hasBudgetEntry (s : State) : Bool := s.ladder.stack.any (·.cause == .budget)

/-- The evaluation of an arrival's condition change, if there is one (R57, R75). -/
def State.evaluateArrival (s : State) (c : Change) : State :=
  if c.isNone then s else s.changeEndsDoze.evaluate c

/-- The scan of an arrival while a BUDGET entry stands (R108). -/
def State.budgetScan (s : State) : State := if s.hasBudgetEntry then s.scanEvent else s

/-- A meter arrival at the Ladder Controller: the evaluation of its condition change if there is one,
the overrun judgement, and a scan while a BUDGET entry stands (R57, R85, R108). -/
def State.takeArrival (s before : State) : State :=
  ((s.evaluateArrival (Change.between before.word s.word)).judgeOverrun).budgetScan.takeOverFall before

/-! ### The recompute -/

/-- The stage chosen from scratch on levels alone (R72). -/
def State.levelStage (s : State) : Fin 8 :=
  highestStage fun i => s.ladder.live.enabled i && (s.ladder.live.entry i).onLevels s.word

/-- A running overrun timer is cut to the overrun dwell (R72, R86). -/
def State.boundOverrun (s : State) : State :=
  { s with ladder := { s.ladder with
      overrun := s.ladder.overrun.map fun t => min t (s.ladder.live.overrunDwell * 1000) } }

/-- The active stage chosen from scratch, with STAGE_CHANGE if its number differs (R72). -/
def State.restage (s : State) : State :=
  if s.levelStage = s.ladder.active then s.setStage s.levelStage
  else (s.setStage s.levelStage).raise .stageChange

/-- A sweep: the stage sheds of the active stage, and ENFORCED if any was made (R72, R83, R153). -/
def State.sweep (s : State) : State := s.stageSheds.enforcedFor s.stageSet

/-- The recompute on levels alone, with sweep, overrun judgement, exit judgement and hand-over (R72, R80). -/
def State.recompute (s : State) : State :=
  ((s.restage.sweep.judgeOverrun.boundOverrun).judgeNewExit.stageChanged).takeOverFall s

end Sys2Proof.Machine
end

