-- ==== Sys2Proof/Machine/Modes.lean ====
section
/-! DEFINITION. Mode Control's shared operations: the effects of leaving and entering a mode (R150 to R156), the census (R161, R163), the resets that hold the part (R162) and the passing of time. -/

namespace Sys2Proof.Machine

/-! ### Changes of mode -/

/-- The wind-down of a load is ended by a change of mode: it owes OFF, leaves the stack and becomes
OFF (R103). -/
def State.endWindDown (s : State) (n : LoadNo) : State :=
  ((s.unstack n).changeRun n fun _ r => r.becomeOff).commandOff n

/-- The record and the stack after an entry has left by a change of mode (R152, R156). -/
def State.departed (s : State) (n : LoadNo) : LoadState → State
  | .winding => s.endWindDown n
  | .shed => s.leaveStack n
  | .unknown => s
  | .absent => s
  | .off => s
  | .lockout => s
  | .on => s
  | .restoring => s

/-- An entry leaves the stack by a change of mode (R152, R156). At an entry to BYPASS the decreases are
reported when every held request has been withdrawn (`State.tellDepartures`); otherwise at once, and a load
that an earlier departure's replay has already taken out of the stack is left as it is (log entry 33). -/
def State.releaseEntry (s : State) (n : LoadNo) : State :=
  match s.live? n with
  | some l =>
    let left := (s.departed n l.run.state).reportDirect n l.run
    if s.control.mode = .bypass then left else left.reportDraw s
  | none => s

/-- The entries that pass leave the stack, from the top down (R152, R156). -/
def State.releaseEntries (s : State) (p : StackEntry → Bool) : State :=
  ((s.ladder.stack.filter p).map (·.load)).foldl State.releaseEntry s

/-- The quiet timer is cancelled (R156). -/
def State.stopQuiet (s : State) : State := { s with control := { s.control with quiet := none } }

/-- Leaving STORAGE (R156). -/
def State.leaveStorage (s : State) : State :=
  let s := s.releaseEntries (·.cause == .storage)
  s.endDoze.stopQuiet

/-- Entry to BYPASS (R152). -/
def State.enterBypass (s : State) : State :=
  (s.releaseEntries fun _ => true).withdrawHeld (fun _ => true) .bypass

/-- Entry to GOVERNING: from BYPASS a sweep of the cuttable loads (R153). -/
def State.enterGoverning (s : State) (old : Mode) : State :=
  if old = .bypass then s.sweep else s

/-- The held request's load has tier 1 or above (R134). -/
def State.heldTierOne (s : State) (h : Held) : Bool := (s.live? h.load).any fun l => 1 ≤ l.config.tier

/-- Entry to STORAGE (R154). Each shed of the sweep reports its decrease at once (R25, R82), so a replay may
come in mode STORAGE before the withdrawals of step 2 (the model's choice, log entry 45): it withdraws
entries of tier 1 and above by check 8 with no publish, skips a WINDING load's entry until step 2, and may
grant a PASS load of such a tier. -/
def State.enterStorage (s : State) : State :=
  let swept := s.inShedOrder Live.sheddable
  let s := swept.foldl (State.shed · .storage ·) s
  ((s.withdrawHeld s.heldTierOne .storage).startQuiet).enforcedFor swept

/-- The effects of entering a mode (R152 to R154). -/
def State.enterMode (s : State) (old : Mode) : State :=
  match s.control.mode with
  | .bypass => s.enterBypass
  | .governing => s.enterGoverning old
  | .storage => s.enterStorage
  | .starting => s

/-- Another mode is in force. -/
def State.setMode (s : State) (m : Mode) : State := { s with control := { s.control with mode := m } }

/-- The mode is set and what leaving the old mode asks is done (R150). -/
def State.leaveFor (s : State) (new : Mode) : State :=
  if s.control.mode = .storage then (s.setMode new).leaveStorage else s.setMode new

/-- The decreases of an entry to BYPASS are reported, each in its turn, after the withdrawals of R152, so
that the replays they make find no held request and the scans nothing eligible (R25, R152; log entry 33). -/
def State.tellDepartures (s before : State) (new : Mode) : State :=
  if new = .bypass then s.reportFalls before State.drawFell else s

/-- The last gasp of an entry to GOVERNING or STORAGE while LAST is high (R158), and then the reports of
the decreases it made (R25, log entry 9). -/
def State.gaspOnEntry (s : State) (new : Mode) : State :=
  if s.sense.last && (new == .governing || new == .storage) then s.lastGasp.reportFalls s State.drawFell
  else s

/-- A change of mode in its three steps (R150, R158). -/
def State.changeMode (s : State) (new : Mode) : State :=
  ((((s.leaveFor new).enterMode s.control.mode).tellDepartures s new).gaspOnEntry new).blocksTake
    (new == .governing) true

/-! ### The census -/

/-- The LOAD phase has not ended (R34, R56). -/
def State.beforeLoadEnds (s : State) : Bool :=
  s.control.phase == some .settle || s.control.phase == some .load

/-- A load leaves the census set (R161, R163). -/
def State.leaveCensus (s : State) (n : LoadNo) : State :=
  { s with control := { s.control with census := s.control.census.map (·.filter (· != n)) } }

/-- A load is asked in a census, once. -/
def joinSet (n : LoadNo) (asked : List LoadNo) : List LoadNo :=
  if asked.contains n then asked else asked ++ [n]

/-- A load a publish made UNKNOWN joins the set of a start-up census (R161, log entry 16). -/
def State.joinCensus (s : State) (n : LoadNo) : State :=
  if s.control.mode = .starting then
    { s with control := { s.control with census := s.control.census.map (joinSet n) } }
  else s

/-- The live loads with a module target (R161). -/
def State.moduleLoads (s : State) : List LoadNo :=
  (List.finRange 48).filter fun n => (s.live? n).any fun l =>
    match l.config.target with
    | .module _ _ => true
    | .direct _ => false

/-- Some live load is UNKNOWN (R161). -/
def State.someUnknown (s : State) : Bool :=
  (List.finRange 48).any fun n => (s.live? n).any fun l => l.run.state == .unknown

/-- No census runs any more; outside one, STARTING has ended and there is no phase (R150, R161). -/
def State.stopCensus (s : State) : State :=
  { s with control := { s.control with census := none, phase := none } }

/-- The mode a start-up census ends in (R160, R161). -/
def State.startMode (s : State) : Mode :=
  if s.control.storeValid then s.mgmt.settings.startMode else .bypass

/-- The census ends when its last load has been heard (R161, R163). -/
def State.censusCheck (s : State) : State :=
  match s.control.census with
  | none => s
  | some asked =>
    if s.control.mode = .starting then
      if s.someUnknown then s else s.stopCensus.changeMode s.startMode
    else if asked.isEmpty then s.stopCensus else s

/-- A census runs with this set (R150). -/
def State.setCensus (s : State) (asked : List LoadNo) : State :=
  { s with control := { s.control with census := some asked } }

/-- The census begins: every module load that owes nothing owes QUERY (R30, R161, R163). -/
def State.beginCensus (s : State) : State :=
  ((s.moduleLoads.foldl State.oweQuery s).setCensus s.moduleLoads).censusCheck

/-! ### Resets that hold the part -/

/-- The part held in a reset: all volatile state is lost, the direct outputs are off; the store, the
reset cause record and what holds the part stay (R22, R45, R92, R149, R162, R181). -/
def State.volatileLost (s : State) : State :=
  { State.reset with
    mgmt := { State.reset.mgmt with store := s.mgmt.store }
    control := { ModeControl.reset with
      settle := none, lastReset := s.control.lastReset, storeValid := s.control.storeValid,
      supplyHold := s.control.supplyHold, lineHold := s.control.lineHold }
    choices := s.choices
    pending := s.pending }

/-- SETTLE begins (R159). -/
def State.startSettle (s : State) : State :=
  { s with control := { s.control with settle := some Config.settleMs } }

/-- Start-up begins at SETTLE if no cause holds the part any more (R54, R162). -/
def State.releaseIfFree (s : State) : State :=
  if s.inResetHold then s else s.startSettle

/-! ### The passing of time -/

/-- A running timer after 1 ms; one that has run out stays at 0 until its expiry is taken (log entry 1). -/
def tickTimer (t : Option Nat) : Option Nat := t.map (· - 1)

/-- A runtime record after 1 ms. -/
def Runtime.tick (r : Runtime) : Runtime :=
  { r with minOn := tickTimer r.minOn, lockout := tickTimer r.lockout, grace := tickTimer r.grace,
           answer := tickTimer r.answer }

/-- A slot after 1 ms. -/
def Slot.tick (slot : Slot) : Slot :=
  { slot with live := slot.live.map fun l => { l with run := l.run.tick } }

/-- The sequencer after 1 ms. -/
def Sequencer.tick : Sequencer → Sequencer
  | .idle => .idle
  | .restoring n => .restoring n
  | .stagger left => .stagger (left - 1)

/-- 1 ms passes: every running timer's remaining time falls by 1 ms, and nothing else changes. -/
def State.tick (s : State) : State :=
  { s with
    loads := { s.loads with slots := s.loads.slots.map Slot.tick }
    sense := { s.sense with scanTimer := tickTimer s.sense.scanTimer }
    meter := { s.meter with staleTimer := tickTimer s.meter.staleTimer }
    watches := s.watches.map fun w => { w with dwell := tickTimer w.dwell }
    ladder := { s.ladder with exitDwell := tickTimer s.ladder.exitDwell,
                              overrun := tickTimer s.ladder.overrun, seq := s.ladder.seq.tick }
    hold := s.hold.map fun h => { h with lifetime := tickTimer h.lifetime }
    control := { s.control with settle := tickTimer s.control.settle, quiet := tickTimer s.control.quiet } }

end Sys2Proof.Machine
end

