-- ==== Sys2Proof/Machine/Manage.lean ====
section
/-! DEFINITION. Taking a MANAGE request (R148, R164, R165): the discard of a request whose answer could not be sent, the two common checks, and the REPLY. -/

namespace Sys2Proof.Machine

/-- What a request answers: a status, and data with OK (R185). -/
structure Answer where
  status : Status
  data : List Byte := []
deriving DecidableEq, Repr

/-- A request is refused and changes nothing (R164). -/
def State.refuse (s : State) (status : Status) : State × Option Answer := (s, some { status := status })

/-- A request is carried out and answered OK with data. -/
def State.done (s : State) (data : List Byte := []) : State × Option Answer :=
  (s, some { status := .ok, data := data })

/-- The REPLY to a MANAGE request joins the reply list (R148). -/
def State.answerManage (s : State) (dst code : Byte) (a : Answer) : State :=
  s.joinReply (s.manageReply dst code a.status a.data)

/-- A node outside a non-empty manager list (R165). -/
def State.outsider (s : State) (src : Byte) : Bool :=
  !s.mgmt.settings.managerList.isEmpty && !s.mgmt.settings.managerList.contains src.toNat

/-- A request refused BUSY while a save is in flight (R164). -/
def State.unlessSaving (s : State) (act : State → State × Option Answer) : State × Option Answer :=
  if s.mgmt.save.isSome then s.refuse .busy else act s

/-- A MANAGE request of so many body bytes for the part: discarded when the reply list is full (R148),
refused BAD_ARG when its arguments do not parse, refused DENIED when it is write-kind and its sender is
an outsider (R164), executed otherwise; its REPLY joins last (R148). The frames of the reply list are
counted after the request's source is learned, so a NODE_CONFLICT NOTICE may take the last place (the
model's choice, log entry 41). -/
def State.manage {α : Type} (s : State) (src code : Byte) (length : Nat) (write : Bool)
    (args : Option α) (act : α → State → State × Option Answer) : State :=
  s.takeFrame .panel src s.own length fun s =>
    if Config.replyDepth ≤ s.ports.replies.length then s.raise .relayOverflow
    else
      match args with
      | none => s.answerManage src code { status := .badArg }
      | some a =>
        if write && s.outsider src then s.answerManage src code { status := .denied }
        else
          match act a s with
          | (s, some answer) => s.answerManage src code answer
          | (s, none) => s

end Sys2Proof.Machine
end

