-- ==== Sys2Proof/Machine/AttentionRequests.lean ====
section
/-! DEFINITION. The meanings of the attention requests: ATTENTION_QUERY and the four actions of ATTENTION CONTROL (R179, R180). -/

namespace Sys2Proof.Machine

/-- The announceable set (R178), highest priority first. -/
def State.announceable (s : State) : List (Fin 15) :=
  (List.finRange 15).filter fun i => s.attention[i].announceable

/-- The effect of ATTENTION QUERY and its data (R179, R185). -/
def State.query (s : State) : State × Option Answer :=
  match s.announceable with
  | [] => s.done [0, 0]
  | i :: rest =>
    (s.modifyCause i fun f => { f with inService := true }).done [byte (i.val + 1), byte rest.length]

/-- ATTENTION_QUERY (R179). -/
def execAttentionQuery (src : Byte) (s : State) : Host.Outcome State Fault Refusal :=
  .next (s.manage src 24 1 false (some ()) fun _ s => s.query)

/-- An action on one cause, and the NOTICE it may bring (R178, R180). -/
def State.controlCause (s : State) (src cause : Byte) (act : CauseFlags → CauseFlags) : State :=
  s.manage src 25 3 true (causeOfByte cause) fun i s => ((s.modifyCause i act).announce s).done

/-- CLEAR (R180). -/
def CauseFlags.clear (f : CauseFlags) : CauseFlags := { f with pending := false, inService := false }

/-- ENABLE (R180). -/
def CauseFlags.enable (f : CauseFlags) : CauseFlags := { f with enabled := true }

/-- DISABLE (R180). -/
def CauseFlags.disable (f : CauseFlags) : CauseFlags := { f with enabled := false }

/-- RELEASE (R180). -/
def CauseFlags.release (f : CauseFlags) : CauseFlags := { f with inService := false }

/-- ATTENTION_CLEAR (R180). -/
def execAttentionClear (src cause : Byte) (s : State) : Host.Outcome State Fault Refusal :=
  .next (s.controlCause src cause CauseFlags.clear)

/-- ATTENTION_ENABLE (R180). -/
def execAttentionEnable (src cause : Byte) (s : State) : Host.Outcome State Fault Refusal :=
  .next (s.controlCause src cause CauseFlags.enable)

/-- ATTENTION_DISABLE (R180). -/
def execAttentionDisable (src cause : Byte) (s : State) : Host.Outcome State Fault Refusal :=
  .next (s.controlCause src cause CauseFlags.disable)

/-- ATTENTION_RELEASE (R180). -/
def execAttentionRelease (src cause : Byte) (s : State) : Host.Outcome State Fault Refusal :=
  .next (s.controlCause src cause CauseFlags.release)

end Sys2Proof.Machine
end

