-- ==== Sys2Proof/Machine/Reports.lean ====
section
/-! DEFINITION. The meanings of the module reports: ON_REPORT, OFF_REPORT, WINDING_REPORT, STOPPED_REPORT, FAULT_REPORT and FAILED_STATE_FRAME (R34 to R43, R96, R183). -/

namespace Sys2Proof.Machine

/-! ### Effects on the record (R34 step 2) -/

/-- The level a load takes from an ON report when it enters ON: 100 % without one (R183). -/
def enteredLevel (level : Option Nat) : Option Nat := some (level.getD 100)

/-- The prior level of a load enforced off: the reported level, a free value when the report carries
none (R36, log entry 6). -/
def State.enforcedLevel (s : State) (c : LoadConfig) (level : Option Nat) : Option Nat :=
  if c.dimmable then some (level.getD ((Config.unstatedLevel s.choices).val + 1)) else none

/-- The record of a load that an ON report makes ON; an owed ON carries the level recorded (R35, R186). -/
def Runtime.reportedOn (level : Option Nat) (c : LoadConfig) (r : Runtime) : Runtime :=
  (r.enterOn (enteredLevel level) c).followLevel

/-- The record of an ON load after an ON report: its level from the report, if that carries one (R35, R183). -/
def Runtime.reportedLevel (level : Option Nat) (c : LoadConfig) (r : Runtime) : Runtime :=
  ({ r with level := if c.dimmable && level.isSome then level else r.level } : Runtime).followLevel

/-- Enforcement of a local switch-on (R36). -/
def State.enforce (s : State) (n : LoadNo) (l : Live) (level : Option Nat) : State :=
  let s := s.setOwed n (some .off)
  (if l.config.restoreAuto then
    let kept := s.enforcedLevel l.config level
    ((s.changeRun n fun c r => { (r.becomeShed c) with level := kept, prior := kept }).push
      { load := n, cause := s.shedCause l.config, prior := kept }).chosen
  else s.changeRun n Runtime.goOff).raise .localOn

/-- The effect of an ON report (R35, R41, R96). A SHED load reported ON is enforced again with its entry kept where
it is; whether a level in that report becomes its prior level R36 leaves open, and the record's levels and the
entry's prior level stay as they are (the model's choice, log entry 49). -/
def State.onEffect (s : State) (n : LoadNo) (l : Live) (level : Option Nat) : State :=
  let entered := s.changeRun n (Runtime.reportedOn level)
  match l.run.state with
  | .unknown => if s.cuttable l.config then entered.shedOne n (s.shedCause l.config) else entered
  | .absent => if s.cuttable l.config then entered.shedOne n (s.shedCause l.config) else entered
  | .off => if s.cuttable l.config then s.enforce n l level else entered
  | .lockout => if s.cuttable l.config then s.enforce n l level else entered
  | .on =>
    s.changeRun n (Runtime.reportedLevel level)
  | .restoring =>
    if l.run.withdrawn then (s.changeRun n Runtime.goOff).restoreEnded n else entered.restoreEnded n
  | .shed =>
    ((s.changeRun n fun c r => { r with lockout := startTimer c.minOff }).setOwed n (some .off)).raise .localOn
  | .winding => s

/-- The end of a wind-down by STOPPED (R39). A WIND that has not started stays owed: no rule removes it
(R31, log entry 38). -/
def State.windDownEnds (s : State) (n : LoadNo) (l : Live) : State :=
  if l.config.restoreAuto && !l.run.userOff then s.changeRun n Runtime.becomeShed
  else (s.unstack n).changeRun n Runtime.goOff

/-- The effect of an OFF report, and of a STOPPED report outside WINDING (R37, R39, R41). -/
def State.offEffect (s : State) (n : LoadNo) (l : Live) : State :=
  match l.run.state with
  | .on => s.changeRun n Runtime.goOff
  | .restoring => (s.changeRun n fun _ r => r.becomeOff).restoreEnded n
  | .winding => s.windDownEnds n l
  | .unknown => s.changeRun n fun _ r => r.becomeOff
  | .absent => s.changeRun n fun _ r => r.becomeOff
  | .shed => s
  | .off => s
  | .lockout => s

/-- The effect of a WINDING report (R38, R41). -/
def State.windingEffect (s : State) (n : LoadNo) (l : Live) : State :=
  match l.run.state with
  | .unknown => s.changeRun n fun _ r => r.becomeOff
  | .absent => s.changeRun n fun _ r => r.becomeOff
  | .restoring =>
    if l.run.withdrawn then (s.changeRun n fun _ r => r.becomeOff).restoreEnded n else s
  | .on => s
  | .winding => s
  | .shed => s
  | .off => s
  | .lockout => s

/-- The effect of a FAULT report, in every state (R40): an owed OFF alone stays. -/
def State.faultEffect (s : State) (n : LoadNo) : State :=
  let cleared := (s.unstack n).changeRun n fun _ r =>
    { r.becomeOff with owed := if r.owed = some .off then some .off else none }
  ((cleared.restoreEnded n).decideHeld n (.withdrawn .fault)).raise .loadFault

/-! ### Taking a report -/

/-- A report that leaves the load ON decides its held request (R133). A PASS load's requester has already
been answered when the request is forwarded untouched (R143, log entry 39). -/
def State.decideOnReport (s : State) (n : LoadNo) : State :=
  match s.heldFor n, s.live? n with
  | some h, some l =>
    if l.run.state = .on then
      match l.config.authority with
      | .governed => ((s.unhold n).forwardToOn n h.wish).answerSwitch h.requester h.channel .granted
      | .pass => ((s.unhold n).answerSwitch h.requester h.channel .granted).forwardPass n h.wish
      | .forcedOff => s.decideHeld n (.withdrawn .forced)
    else s
  | _, _ => s

/-- A report taken for a live load, in the four steps of R34, and the end of the census it may bring
(R161, R163). -/
def State.takeReport (s : State) (n : LoadNo) (kind level : Nat) (effect : State → Live → State) : State :=
  let heard := (s.changeRun n fun _ r => { r with answer := none }).leaveCensus n
  match heard.live? n with
  | none => s
  | some l =>
    let after := effect heard l
    let told := (after.decideOnReport n).reportDraw heard
    match after.live? n with
    | none => told
    | some l' => (told.joinPanelFifo (after.reportFrame n l' kind level)).censusCheck

/-- A STATE frame from the load line that passes its body checks (R9, R34): dropped before LOAD has
ended and when no live load has its target. -/
def State.takeState (s : State) (src out : Byte) (kind level : Nat)
    (effect : State → LoadNo → Live → State) : State :=
  if 15 < out.toNat ∨ s.beforeLoadEnds then s
  else
    match s.loadAt src.toNat out.toNat with
    | none => s
    | some n => s.takeReport n kind level (effect · n ·)

/-- ON_REPORT (R35). -/
def execOnReport (src dst out : Byte) (level : Option Byte) (s : State) :
    Host.Outcome State Fault Refusal :=
  .next (s.takeFrame .load src dst (2 + level.toList.length) fun s =>
    if level.all (fun b => 1 ≤ b.toNat && b.toNat ≤ 100) then
      s.takeState src out 1 (level.elim 0 BitVec.toNat) (State.onEffect · · · (level.map BitVec.toNat))
    else s)

/-- OFF_REPORT (R37). -/
def execOffReport (src dst out : Byte) (s : State) : Host.Outcome State Fault Refusal :=
  .next (s.takeFrame .load src dst 2 fun s => s.takeState src out 2 0 State.offEffect)

/-- WINDING_REPORT (R38). -/
def execWindingReport (src dst out : Byte) (s : State) : Host.Outcome State Fault Refusal :=
  .next (s.takeFrame .load src dst 2 fun s => s.takeState src out 3 0 State.windingEffect)

/-- STOPPED_REPORT (R39): in any state but WINDING exactly as an OFF report, and an OFF report of a
WINDING load is taken as STOPPED (R37), so the effects agree. -/
def execStoppedReport (src dst out : Byte) (s : State) : Host.Outcome State Fault Refusal :=
  .next (s.takeFrame .load src dst 2 fun s => s.takeState src out 4 0 State.offEffect)

/-- FAULT_REPORT (R40). -/
def execFaultReport (src dst out : Byte) (s : State) : Host.Outcome State Fault Refusal :=
  .next (s.takeFrame .load src dst 2 fun s => s.takeState src out 5 0 fun s n _ => s.faultEffect n)

/-- FAILED_STATE_FRAME: the frame is learned and goes no further (R183). -/
def execFailedStateFrame (src dst : Byte) (body : List Byte) (s : State) :
    Host.Outcome State Fault Refusal :=
  .next (s.takeFrame .load src dst body.length fun s => s)

end Sys2Proof.Machine
end

