-- ==== Sys2Proof/Machine/Frames.lean ====
section
/-! DEFINITION. The meanings of METER_ARRIVAL, DATA_FRAME, FRAME_IGNORED and FRAME_DISCARDED (R56 to R60, R137 to R143, R184). -/

namespace Sys2Proof.Machine

/-- A watch takes an accepted METER frame: a sample of its quantity; BATT_TEMP takes a frame without
a temperature by cancelling its dwell (R61, R63). -/
def Watch.takeMeter (v : MeterValues) (w : Watch) : Watch :=
  match w.defn.source with
  | .leisureV => w
  | .chassisV => w
  | .auxV => w
  | .netA => w.sample v.current
  | .dischargeA => w.sample (-v.current).toNat
  | .soc => w.sample v.soc
  | .battTemp =>
    match v.temperature with
    | some t => w.sample t
    | none => w.stopDwell

/-- The Meter Tap and the watches after an accepted METER frame (R57, R60). -/
def State.meterValues (s : State) (v : MeterValues) : State :=
  { s with
    meter := { current := some v.current, soc := some v.soc, temperature := v.temperature,
               solar := v.solar, alternator := v.alternator, shore := v.shore,
               staleTimer := some (s.mgmt.settings.staleTimeout * 1000), stale := false,
               charge := v.solar || v.alternator || v.shore }
    watches := s.watches.map (Watch.takeMeter v) }

/-- The Meter Tap takes a METER frame, or does not (R56). -/
def State.offerMeter (s : State) (src : Byte) (body : List Byte) : State :=
  if src.toNat = s.mgmt.settings.monitorNode ∧ s.beforeLoadEnds = false then
    match meterOfBody body with
    | some v => (s.meterValues v).takeArrival s
    | none => s
  else s

/-- METER_ARRIVAL: the frame crosses and is offered to the Meter Tap (R57, R142). It joins the relay FIFO,
with the RELAY_OVERFLOW that may bring, before the Tap takes it: R140 and R142 list the two in opposite
orders (the model's choice, log entry 40). -/
def execMeterArrival (src dst : Byte) (body : List Byte) (s : State) :
    Host.Outcome State Fault Refusal :=
  .next (s.takeFrame .load src dst body.length fun s =>
    (s.joinPanelFifo { kind := .meter, src := src, dst := dst, body := body }).offerMeter src body)

/-- A DATA frame for this destination crosses (R141). -/
def State.crosses (s : State) (line : Line) (dst : Byte) : Bool :=
  dst != s.own && (dst == 0 || s.side dst.toNat != Line.side line)

/-- A frame joins the relay FIFO toward the other line (R143). -/
def State.joinOther (s : State) (line : Line) (f : Frame) : State :=
  match line with
  | .panel => s.joinLoadFifo f
  | .load => s.joinPanelFifo f

/-- DATA_FRAME (R141). -/
def execDataFrame (line : Line) (src dst : Byte) (body : List Byte) (s : State) :
    Host.Outcome State Fault Refusal :=
  .next (s.takeFrame line src dst body.length fun s =>
    if s.crosses line dst then s.joinOther line { kind := .data, src := src, dst := dst, body := body }
    else s)

/-- FRAME_IGNORED: a good frame that concerns no block on its line is learned and goes no further
(R138, R140). A frame of another kind is no such event (log entry 2). -/
def execFrameIgnored (line : Line) (kind : FrameKind) (src dst : Byte) (body : List Byte) (s : State) :
    Host.Outcome State Fault Refusal :=
  .next (if ignoredKind line kind (dst == s.own) then s.takeFrame line src dst body.length fun s => s
    else s)

/-- FRAME_DISCARDED: a frame that fails its port's check is line activity and raises LINE_ERROR; it is
not learned (R137). Bytes whose number disagrees with their length byte are taken so too (the model's
choice, log entry 42). -/
def execFrameDiscarded (_line : Line) (bytes : List Byte) (s : State) :
    Host.Outcome State Fault Refusal :=
  .next (if s.inResetHold || (checkFrame bytes).isSome then s else s.lineActivity.raise .lineError)

end Sys2Proof.Machine
end

