-- ==== Sys2Proof/Machine/LadderRequests.lean ====
section
/-! DEFINITION. The meanings of the ladder and watch requests: WRITE_STAGE, READ_STAGE, PUBLISH_LADDER, WRITE_WATCH and READ_WATCH (R64, R70 to R72). -/

namespace Sys2Proof.Machine

/-- A ladder with one stage replaced whole (R70). -/
def Ladder.write (l : Ladder) : StageWrite → Ladder
  | .zero ceiling stagger overrunDwell =>
    { l with ceiling0 := ceiling, stagger := stagger, overrunDwell := overrunDwell }
  | .upper i stage => { l with stages := l.stages.set i stage }

/-- The draft ladder takes a stage; one is made from the live ladder if none stands (R70). -/
def State.writeStage (s : State) (w : StageWrite) : State :=
  { s with ladder := { s.ladder with draft := some ((s.ladder.draft.getD s.ladder.live).write w) } }

/-- WRITE_STAGE (R70). -/
def execWriteStage (src : Byte) (record : List Byte) (s : State) : Host.Outcome State Fault Refusal :=
  .next (s.manage src 8 (1 + record.length) true (stageOfRecord record) fun w s => (s.writeStage w).done)

/-- The stage a byte names (R185). -/
def stageOfByte (b : Byte) : Option (Fin 8) := if h : b.toNat < 8 then some ⟨b.toNat, h⟩ else none

/-- The ladder a copy byte names: 1 LIVE, 2 DRAFT (R185); none when no draft stands (R70). -/
def State.ladderCopy (s : State) (copy : Byte) : Option Ladder :=
  if copy = 1 then some s.ladder.live else s.ladder.draft

/-- READ_STAGE (R70). -/
def execReadStage (src stage copy : Byte) (s : State) : Host.Outcome State Fault Refusal :=
  .next (s.manage src 9 3 false (if copy = 1 ∨ copy = 2 then stageOfByte stage else none) fun i s =>
    match s.ladderCopy copy with
    | some l => s.done (l.record i)
    | none => s.refuse .notFound)

/-- The draft replaces the live ladder whole (R71). -/
def State.installLadder (s : State) (l : Ladder) : State :=
  { s with ladder := { s.ladder with live := l, draft := none } }

/-- Checks 2 to 6 of R71, and the effects of R72. -/
def State.publishLadderChecked (s : State) : State × Option Answer :=
  if s.beforeLoadEnds then s.refuse .notReady
  else
    match s.ladder.draft with
    | none => s.refuse .notFound
    | some d =>
      if d.ordered = false then s.refuse .ladderOrder
      else if d.patterned = false then s.refuse .ladderPattern
      else ((s.installLadder d).recompute).done

/-- PUBLISH_LADDER (R71, R72). -/
def execPublishLadder (src : Byte) (s : State) : Host.Outcome State Fault Refusal :=
  .next (s.manage src 10 1 true (some ()) fun _ s => s.unlessSaving State.publishLadderChecked)

/-- The latest value of a source, if it has one (R64). -/
def State.latest (s : State) : Source → Option Int
  | .leisureV => s.sense.leisure.map Int.ofNat
  | .chassisV => s.sense.chassis.map Int.ofNat
  | .auxV => s.sense.aux.map Int.ofNat
  | .netA => s.meter.current
  | .dischargeA => s.meter.discharge.map Int.ofNat
  | .soc => s.meter.soc.map Int.ofNat
  | .battTemp => s.meter.temperature

/-- A watch takes a written definition (R64). -/
def State.writeWatch (s : State) (w : WatchNo) (d : WatchDef) : State :=
  { s with watches := s.watches.set w (s.watches[w].write d (s.latest d.source)) }

/-- WRITE_WATCH (R64). -/
def execWriteWatch (src : Byte) (record : List Byte) (s : State) : Host.Outcome State Fault Refusal :=
  .next (s.manage src 11 (1 + record.length) true (watchOfRecord record) fun a s =>
    s.unlessSaving fun s => ((s.writeWatch a.1 a.2).takeChange s).done)

/-- The watch a byte 1..8 names (R185). -/
def watchOfByte (b : Byte) : Option WatchNo :=
  if h : 1 ≤ b.toNat ∧ b.toNat ≤ 8 then some ⟨b.toNat - 1, by omega⟩ else none

/-- READ_WATCH (R64, R185). -/
def execReadWatch (src watch : Byte) (s : State) : Host.Outcome State Fault Refusal :=
  .next (s.manage src 12 2 false (watchOfByte watch) fun w s =>
    s.done (s.watches[w].defn.record w
      ++ [byte (bit s.watches[w].output + 2 * bit s.watches[w].dwell.isSome)]))

end Sys2Proof.Machine
end

