-- ==== Sys2Proof/Machine/LoadTable.lean ====
section
/-! DEFINITION. The meanings of the Load Table and Channel Map requests: READ_ENTRY, WRITE_DRAFT, DISCARD_DRAFT, PUBLISH, RETIRE, MAP and READ_MAP (R10 to R20, R168, R169). -/

namespace Sys2Proof.Machine

/-! ### Reading entries -/

/-- The record of a copy of a load: 1 LIVE, 2 DRAFT, 3 RUNTIME; none when the copy does not exist (R168). -/
def State.entryRecord (s : State) (n : LoadNo) (copy : Byte) : Option (List Byte) :=
  if copy = 1 then (s.live? n).map (·.config.record)
  else if copy = 2 then s.loads.slots[n].draft.map LoadConfig.record
  else (s.live? n).map fun l =>
    l.run.record (s.isHeld n) (s.ladder.stack.findIdx? (·.load == n))

/-- The arguments of READ ENTRY (R185). -/
def entryArgs (load copy : Byte) : Option LoadNo :=
  if 1 ≤ copy.toNat ∧ copy.toNat ≤ 3 then loadOfByte load else none

/-- READ_ENTRY (R168). -/
def execReadEntry (src load copy : Byte) (s : State) : Host.Outcome State Fault Refusal :=
  .next (s.manage src 1 3 false (entryArgs load copy) fun n s =>
    match s.entryRecord n copy with
    | some r => s.done r
    | none => s.refuse .notFound)

/-! ### Drafting -/

/-- The arguments of WRITE DRAFT with the checks of R11: a module target is not the part's own address. -/
def State.draftArgs (s : State) (load : Byte) (record : List Byte) : Option (LoadNo × LoadConfig) :=
  match loadOfByte load, configOfRecord record with
  | some n, some c =>
    match c.target with
    | .module node _ => if node = s.mgmt.settings.nodeAddress then none else some (n, c)
    | .direct _ => some (n, c)
  | _, _ => none

/-- A draft stands, or none does (R11, R12). -/
def State.setDraft (s : State) (n : LoadNo) (d : Option LoadConfig) : State :=
  s.setSlot n { s.loads.slots[n] with draft := d }

/-- WRITE_DRAFT (R11). -/
def execWriteDraft (src load : Byte) (record : List Byte) (s : State) :
    Host.Outcome State Fault Refusal :=
  .next (s.manage src 2 (2 + record.length) true (s.draftArgs load record) fun a s =>
    (s.setDraft a.1 (some a.2)).done)

/-- DISCARD_DRAFT (R12). -/
def execDiscardDraft (src load : Byte) (s : State) : Host.Outcome State Fault Refusal :=
  .next (s.manage src 3 2 true (loadOfByte load) fun n s =>
    if s.loads.slots[n].draft.isSome then (s.setDraft n none).done else s.refuse .notFound)

/-! ### Publishing -/

/-- Another live load has this target (R4). -/
def State.targetTaken (s : State) (n : LoadNo) (t : Target) : Bool :=
  (List.finRange 48).any fun m => m != n && (s.live? m).any fun l => l.config.target == t

/-- The states in which a load may be retargeted or retired (R13, R20). -/
def LoadState.isDown : LoadState → Bool
  | .off => true
  | .unknown => true
  | .absent => true
  | .lockout => false
  | .on => false
  | .winding => false
  | .shed => false
  | .restoring => false

/-- The report of a direct load that a publish has bound to its output (R44). -/
def State.reportBinding (s : State) (n : LoadNo) : State :=
  match s.live? n with
  | some l =>
    match l.config.target with
    | .direct d => s.joinReply (s.generatedReport n l d)
    | .module _ _ => s
  | none => s

/-- The part of R14 and R18 that a new target settles: UNKNOWN with QUERY owed, or OFF with the output
driven off. -/
def State.bindTarget (s : State) (n : LoadNo) : State :=
  match s.target? n with
  | some (.module _ _) =>
    ((s.changeRun n fun _ r => { r with state := .unknown }).oweQuery n).joinCensus n
  | some (.direct d) =>
    (((s.changeRun n fun _ r => { r with state := .off }).setOutput d false).leaveCensus n).reportBinding n
  | none => s

/-- Publishing into a DRAFT-ONLY slot: a new runtime record (R14). -/
def State.publishNew (s : State) (n : LoadNo) (c : LoadConfig) : State :=
  (s.setSlot n { live := some { config := c, run := { state := .off } }, draft := none }).bindTarget n

/-- The draft is the live copy, its record kept (R13). -/
def State.installDraft (s : State) (n : LoadNo) (c : LoadConfig) (r : Runtime) : State :=
  s.setSlot n { live := some { config := c, run := r }, draft := none }

/-- The old target's direct output, if it was one, is driven off (R18). -/
def State.releaseTarget (s : State) : Target → State
  | .direct d => s.setOutput d false
  | .module _ _ => s

/-- The state of a live load. -/
def State.state? (s : State) (n : LoadNo) : Option LoadState := (s.live? n).map (·.run.state)

/-- A retarget lowers committed draw: an UNKNOWN load, counted at the nominal draw it had, goes to a direct
output and is OFF (R18, R25). -/
def retargetFalls (old new : LoadConfig) (state : Option LoadState) : Bool :=
  state == some .unknown && 0 < old.draw &&
    match new.target with
    | .module _ _ => false
    | .direct _ => true

/-- R18: the effects of a target change. -/
def State.retarget (s : State) (n : LoadNo) (old new : LoadConfig) : State :=
  if old.target = new.target then s
  else
    let bound := ((s.changeRun n fun _ r => { r with owed := none, answer := none }).releaseTarget
      old.target).bindTarget n
    if retargetFalls old new (s.state? n) then bound.drawFell else bound

/-- A running timer bounded by a new length; with 0 s it expires (R15). -/
def rebound (t : Option Nat) (seconds : Nat) : Option Nat :=
  if seconds = 0 then none else t.map (min (seconds * 1000))

/-- The level and prior level of a record follow the dimmable field (R15, log entry 10). -/
def Runtime.followDimmable (old new : LoadConfig) (r : Runtime) : Runtime :=
  if old.dimmable && !new.dimmable then ({ r with level := none, prior := none } : Runtime).followLevel
  else if !old.dimmable && new.dimmable then
    if r.state = .on then ({ r with level := some 100 } : Runtime).followLevel
    else if r.state = .shed ∨ r.state = .winding then { r with level := some 100, prior := some 100 }
    else r
  else r

/-- The prior level of a stack entry follows the dimmable field (R15). -/
def StackEntry.followDimmable (old new : LoadConfig) (e : StackEntry) : StackEntry :=
  if old.dimmable && !new.dimmable then { e with prior := none }
  else if !old.dimmable && new.dimmable then { e with prior := some 100 }
  else e

/-- The timers of a record re-bounded (R15): a LOCKOUT load whose lockout expires becomes OFF. -/
def Runtime.rebound (c : LoadConfig) (r : Runtime) : Runtime :=
  { r with
    minOn := Machine.rebound r.minOn c.minOn
    lockout := Machine.rebound r.lockout c.minOff
    state := if r.state = .lockout ∧ (Machine.rebound r.lockout c.minOff).isNone then .off else r.state }

/-- R15: re-bounding and levels, and the report of a lockout that expires. -/
def State.rebindRecord (s : State) (n : LoadNo) (old new : LoadConfig) : State :=
  match s.live? n with
  | some l =>
    let told := ((s.changeRun n fun c r => (r.rebound c).followDimmable old new).modifyEntry n
      (StackEntry.followDimmable old new)).reportDirect n l.run
    if l.run.lockout.isSome ∧ new.minOff = 0 then told.reportLockout n else told
  | none => s

/-- A load that a publish takes out of the stack, to LOCKOUT or OFF, its report with it (R16, R17). It is
SHED: a WINDING load is not published (R13). -/
def State.publishUnstacks (s : State) (n : LoadNo) : State :=
  match s.live? n with
  | some l => if s.stacked n then (s.leaveStack n).reportDirect n l.run else s
  | none => s

/-- R16: a lower nominal draw of a counted load is a committed-draw decrease. -/
def State.changeDraw (s : State) (n : LoadNo) (old new : LoadConfig) : State :=
  if (s.state? n).any LoadState.counted && new.draw < old.draw then s.drawFell else s

/-- R16: restore AUTO to NONE takes a SHED load out of the stack. -/
def State.changeRestore (s : State) (n : LoadNo) (old new : LoadConfig) : State :=
  if old.restoreAuto && !new.restoreAuto then s.publishUnstacks n else s

/-- R16: tier 0 takes a SHED load out of the stack. -/
def State.changeTier (s : State) (n : LoadNo) (new : LoadConfig) : State :=
  if new.tier = 0 then s.publishUnstacks n else s

/-- R16: the nominal draw, the restore option and the tier. -/
def State.fieldChanges (s : State) (n : LoadNo) (old new : LoadConfig) : State :=
  ((s.changeDraw n old new).changeRestore n old new).changeTier n new

/-- The load is ON and cuttable as its live configuration stands (R16, R17). -/
def State.cuttableOn (s : State) (n : LoadNo) : Bool :=
  (s.live? n).any fun l => l.run.state == .on && s.cuttable l.config

/-- The shed of a publish (R19). -/
def State.publishShed (s : State) (n : LoadNo) (new : LoadConfig) : State :=
  if s.cuttableOn n then s.shed (s.shedCause new) n else s

/-- A publish makes the load FORCED_OFF (R17). -/
def forces (old new : LoadConfig) : Bool := old.authority != .forcedOff && new.authority == .forcedOff

/-- A load that becomes FORCED_OFF: out of the stack or out of ON, and commanded off (R17). -/
def State.forceOff (s : State) (n : LoadNo) : State :=
  match s.live? n with
  | some l =>
    let moved :=
      match l.run.state with
      | .shed => s.leaveStack n
      | .on => s.changeRun n Runtime.goOff
      | .unknown => s
      | .absent => s
      | .off => s
      | .lockout => s
      | .winding => s.leaveStack n
      | .restoring => s
    ((moved.commandOff n).reportDirect n l.run).reportDraw s
  | none => s

/-- R17: the effects of an authority change, the shed of R19 aside. -/
def State.authorityChange (s : State) (n : LoadNo) (old new : LoadConfig) : State :=
  if forces old new then s.forceOff n
  else if old.authority = .governed ∧ new.authority = .pass then s.publishUnstacks n
  else s

/-- The effects of a publish of a live load: R18, R15, R16, R17 and R19 in that order, ENFORCED once,
and the hand-over to both blocks (R19, R131). R16's shed is judged by the new authority as it is by the new
tier, so an ON load that one publish makes cuttable by tier and PASS or FORCED_OFF is not shed: it stays ON,
or R17 forces it off (the model's choice, log entry 46). -/
def State.publishLive (s : State) (n : LoadNo) (old new : LoadConfig) (r : Runtime) : State :=
  let fielded := (((s.installDraft n new r).retarget n old new).rebindRecord n old new).fieldChanges n old new
  let acted := (fielded.publishShed n new).authorityChange n old new
  let told := if fielded.cuttableOn n || forces old new then acted.raise .enforced else acted
  told.blocksTake (told.stacked n) (told.isHeld n)

/-- Checks 2 to 6 of R13 and the effects of an accepted publish. -/
def State.publishChecked (s : State) (n : LoadNo) : State × Option Answer :=
  match s.loads.slots[n].draft with
  | none => s.refuse .notFound
  | some new =>
    if s.targetTaken n new.target then s.refuse .badArg
    else
      match s.live? n with
      | none => ((s.publishNew n new).censusCheck).done
      | some l =>
        if l.run.state = .winding ∨ l.run.state = .restoring then s.refuse .loadBusy
        else if l.config.target ≠ new.target ∧ l.run.state.isDown = false then s.refuse .loadActive
        else ((s.publishLive n l.config new l.run).censusCheck).done

/-- PUBLISH (R13). -/
def execPublish (src load : Byte) (s : State) : Host.Outcome State Fault Refusal :=
  .next (s.manage src 4 2 true (loadOfByte load) fun n s => s.unlessSaving (·.publishChecked n))

/-! ### Retiring -/

/-- The effects of an accepted RETIRE (R20). -/
def State.retire (s : State) (n : LoadNo) : State :=
  let decided := s.decideHeld n (.withdrawn .retired)
  ((((decided.setSlot n { decided.loads.slots[n] with live := none }).leaveCensus n)).reportDraw
    decided).censusCheck

/-- Checks 2 to 5 of R20. -/
def State.retireChecked (s : State) (n : LoadNo) : State × Option Answer :=
  match s.live? n with
  | none => s.refuse .notFound
  | some l =>
    if l.run.state.isDown = false then s.refuse .loadActive
    else if l.run.owed = some .off then s.refuse .loadBusy
    else (s.retire n).done

/-- RETIRE (R20). -/
def execRetire (src load : Byte) (s : State) : Host.Outcome State Fault Refusal :=
  .next (s.manage src 5 2 true (loadOfByte load) fun n s => s.unlessSaving (·.retireChecked n))

/-! ### The Channel Map -/

/-- The arguments of MAP (R10, R185). -/
def mapArgs (ch load : Byte) : Option (Nat × Option LoadNo) :=
  if ch.toNat ≤ 127 then (mapEntryOfByte load).map fun e => (ch.toNat, e) else none

/-- Sets a Channel Map entry (R10). -/
def State.setMap (s : State) (ch : Nat) (e : Option LoadNo) : State :=
  { s with loads := { s.loads with map := s.loads.map.setIfInBounds ch e } }

/-- MAP (R10). -/
def execMap (src ch load : Byte) (s : State) : Host.Outcome State Fault Refusal :=
  .next (s.manage src 6 3 true (mapArgs ch load) fun a s => s.unlessSaving fun s => (s.setMap a.1 a.2).done)

/-- The byte of a Channel Map entry: its load number with bit 6 set when mapped, or 255 (R185). -/
def State.mapByte (s : State) (e : Option LoadNo) : Byte :=
  match e with
  | none => 255
  | some n => byte (n.val + 64 * bit (s.live? n).isSome)

/-- READ_MAP: up to 8 entries from the start channel (R169). -/
def execReadMap (src start : Byte) (s : State) : Host.Outcome State Fault Refusal :=
  .next (s.manage src 7 2 false (if start.toNat ≤ 127 then some start.toNat else none) fun ch s =>
    s.done (((s.loads.map.toList.drop ch).take 8).map s.mapByte))

end Sys2Proof.Machine
end

