-- ==== Sys2Proof/Machine/Records.lean ====
section
/-! DEFINITION. The meanings of the Management Unit's own requests: WRITE_SETTING, READ_SETTING, READ_STATUS, READ_RESET_CAUSE, the dump requests, SAVE, SAVE_COMPLETE and MANAGE_UNKNOWN_REQUEST (R164 to R175). -/

namespace Sys2Proof.Machine

/-! ### Settings -/

/-- The settings are replaced (R166). -/
def State.setSettings (s : State) (st : Settings) : State :=
  { s with mgmt := { s.mgmt with settings := st } }

/-- WRITE_SETTING (R166). A new node address acts before the REPLY is built. -/
def execWriteSetting (src code : Byte) (value : List Byte) (s : State) : Host.Outcome State Fault Refusal :=
  .next (s.manage src 13 (2 + value.length) true (s.mgmt.settings.write code value) fun st s =>
    s.unlessSaving fun s => (s.setSettings st).done)

/-- READ_SETTING (R166). -/
def execReadSetting (src code : Byte) (s : State) : Host.Outcome State Fault Refusal :=
  .next (s.manage src 14 2 false (s.mgmt.settings.read code) fun value s => s.done (code :: value))

/-! ### Status -/

/-- The status record (R170, R186). -/
def State.statusRecord (s : State) : List Byte :=
  [byte (s.control.mode.code + 4 * phaseCode s.control.phase + 16 * bit s.control.census.isSome),
   byte s.ladder.active.val]
    ++ word16 s.word.toNat
    ++ (byte (s.draw / 65536) :: word16 (s.draw % 65536))
    ++ word16 (s.meter.discharge.getD 65535)
    ++ [byte s.ladder.stack.length, byte s.hold.length]
    ++ word16 (s.summary (·.pending))

/-- READ_STATUS (R170). -/
def execReadStatus (src : Byte) (s : State) : Host.Outcome State Fault Refusal :=
  .next (s.manage src 15 1 false (some ()) fun _ s => s.done s.statusRecord)

/-- READ_RESET_CAUSE (R170, R185). -/
def execReadResetCause (src : Byte) (s : State) : Host.Outcome State Fault Refusal :=
  .next (s.manage src 16 1 false (some ()) fun _ s =>
    s.done [byte s.control.lastReset.code, byte (bit s.control.storeValid)])

/-! ### The dump cursor -/

/-- The number of records a collection holds (R171). -/
def State.recordCount (s : State) : Collection → Nat
  | .stack => s.ladder.stack.length
  | .queue => s.hold.length
  | .loads => 48
  | .nodes => 62

/-- The first index beyond a collection as it stands (R171, R173). -/
def State.endIndex (s : State) : Collection → Nat
  | .stack => s.ladder.stack.length
  | .queue => s.hold.length
  | .loads => 48
  | .nodes => 63

/-- The records one REPLY carries (R186). -/
def Collection.perReply : Collection → Nat
  | .stack => 4
  | .queue => 2
  | .loads => 4
  | .nodes => 4

/-- A STACK record (R186). -/
def StackEntry.record (e : StackEntry) : List Byte :=
  [byte e.load.val, byte e.cause.code, byte (e.prior.getD 0)]

/-- The command code and level of a held request in a QUEUE record (R186). -/
def Wish.bytes : Wish → List Byte
  | .on => [1, 0]
  | .level n => [2, byte n]

/-- A QUEUE record (R186). -/
def Held.record (h : Held) : List Byte :=
  [byte h.load.val, byte h.requester, byte h.channel] ++ h.wish.bytes
    ++ [byte (h.lifetime.elim 0 (ceilDiv · 60000))]

/-- The code of a slot condition (R1, R186). -/
def Slot.condition (slot : Slot) : Nat := bit slot.draft.isSome + 2 * bit slot.live.isSome

/-- A LOADS record (R186). -/
def State.loadRecord (s : State) (n : LoadNo) : List Byte :=
  [byte n.val,
   byte (s.loads.slots[n].condition + 64 * bit (s.isHeld n) + 128 * bit (s.stacked n)),
   byte ((s.live? n).elim 0 (·.run.state.code))]

/-- The code of a Node Side Table entry (R186). -/
def NodeSide.code : NodeSide → Nat
  | .unseen => 0
  | .panel => 1
  | .load => 2

/-- The record of a collection at an index within it (R171, R186). -/
def State.dumpRecord (s : State) (c : Collection) (i : Nat) : List Byte :=
  match c with
  | .stack => (s.ladder.stack[i]?).elim [] StackEntry.record
  | .queue => (s.hold[i]?).elim [] Held.record
  | .loads => if h : i < 48 then s.loadRecord ⟨i, h⟩ else []
  | .nodes => [byte i, byte (s.side i).code]

/-- Replaces the dump cursor. -/
def State.setCursor (s : State) (c : Option Cursor) : State := { s with mgmt := { s.mgmt with cursor := c } }

/-- The arguments of DUMP OPEN (R172, R185). -/
def dumpArgs (collection start : Byte) : Option (Collection × Nat) :=
  if dumpIndexOk collection start then (collectionOfByte collection).map fun c => (c, start.toNat) else none

/-- DUMP_OPEN (R172). -/
def execDumpOpen (src collection start : Byte) (s : State) : Host.Outcome State Fault Refusal :=
  .next (s.manage src 17 3 false (dumpArgs collection start) fun a s =>
    (s.setCursor (some { owner := src.toNat, collection := a.1, next := a.2 })).done
      [byte (s.recordCount a.1)])

/-- A dump request that needs the cursor: NOT_FOUND when it is closed, DENIED to another node than its
owner (R172). -/
def State.withCursor (s : State) (src : Byte) (act : Cursor → State × Option Answer) :
    State × Option Answer :=
  match s.mgmt.cursor with
  | none => s.refuse .notFound
  | some c => if c.owner = src.toNat then act c else s.refuse .denied

/-- The indices a DUMP NEXT returns (R173). -/
def State.dumpIndices (s : State) (c : Cursor) : List Nat :=
  ((List.range c.collection.perReply).map (c.next + ·)).filter (· < s.endIndex c.collection)

/-- A DUMP NEXT of the owner (R173, R185). -/
def State.dumpNext (s : State) (c : Cursor) : State × Option Answer :=
  let indices := s.dumpIndices c
  let next := c.next + indices.length
  (s.setCursor (some { c with next := next })).done
    (byte (indices.length + 128 * bit (s.endIndex c.collection ≤ next))
      :: indices.flatMap (s.dumpRecord c.collection))

/-- DUMP_NEXT (R172, R173). -/
def execDumpNext (src : Byte) (s : State) : Host.Outcome State Fault Refusal :=
  .next (s.manage src 18 1 false (some ()) fun _ s => s.withCursor src s.dumpNext)

/-- DUMP_CLOSE (R172). -/
def execDumpClose (src : Byte) (s : State) : Host.Outcome State Fault Refusal :=
  .next (s.manage src 19 1 false (some ()) fun _ s => s.withCursor src fun _ => (s.setCursor none).done)

/-! ### SAVE -/

/-- The content a save takes (R174). -/
def State.content (s : State) : StoreContent :=
  { configs := s.loads.slots.map fun slot => slot.live.map (·.config)
    map := s.loads.map
    ladder := s.ladder.live
    watches := s.watches.map (·.defn)
    settings := s.mgmt.settings }

/-- A save begins: the store is invalid from then on (R174). -/
def State.beginSave (s : State) (node : Nat) : State :=
  { s with mgmt := { s.mgmt with store := none, save := some { node := node, content := s.content } } }

/-- SAVE (R174): answered at its completion when accepted. -/
def execSave (src : Byte) (s : State) : Host.Outcome State Fault Refusal :=
  .next (s.manage src 22 1 true (some ()) fun _ s =>
    if s.beforeLoadEnds then s.refuse .notReady
    else s.unlessSaving fun s => (s.beginSave src.toNat, none))

/-- A save ends: the store holds the content taken, or is invalid (R175). -/
def State.endSave (s : State) (op : SaveOp) (copyMatches : Bool) : State :=
  ({ s with mgmt := { s.mgmt with save := none, store := if copyMatches then some op.content else none } }
    : State).answerManage (byte op.node) 22 { status := if copyMatches then .ok else .storeFail }

/-- SAVE_COMPLETE (R175). -/
def execSaveComplete (copyMatches : Bool) (s : State) : Host.Outcome State Fault Refusal :=
  .next (match s.mgmt.save with
    | some op => s.endSave op copyMatches
    | none => s)

/-! ### A body that names no request -/

/-- A body whose BAD_ARG names its request code as the code it carries; an empty body has none, and
the code named is a free value (R164, R185, log entry 7). -/
def State.refuseUnknown (s : State) (src : Byte) (body : List Byte) : State :=
  match body with
  | code :: _ => s.manage src code body.length false (none : Option Unit) fun _ s => s.done
  | [] => s.chosen.manage src (Config.unstatedCode s.choices) 0 false (none : Option Unit) fun _ s => s.done

/-- MANAGE_UNKNOWN_REQUEST (R164 check 1). A body that names a request is no such event (log entry 2). -/
def execManageUnknownRequest (src : Byte) (body : List Byte) (s : State) :
    Host.Outcome State Fault Refusal :=
  .next (if manageCommand src body = .manageUnknownRequest src body then s.refuseUnknown src body else s)

end Sys2Proof.Machine
end

