-- ==== Sys2Proof/Machine/Requests.lean ====
section
/-! DEFINITION. The meanings of the panel requests: ON_REQUEST, LEVEL_REQUEST, OFF_REQUEST and FAILED_SWITCH_FRAME (chapter 7, R183). -/

namespace Sys2Proof.Machine

/-- An ON or LEVEL taken by the Admission Unit (R119, R120). -/
def State.admission (s : State) (src ch : Byte) (w : Wish) : State :=
  s.takeRequest src.toNat ch.toNat fun n l => s.decideRequest n l src.toNat ch.toNat w

/-- An OFF taken by the Admission Unit (R119, R126). -/
def State.admissionOff (s : State) (src ch : Byte) : State :=
  s.takeRequest src.toNat ch.toNat fun n l => s.decideOff n l src.toNat ch.toNat

/-- ON_REQUEST (R120). A channel above 127 fails the body check (R183). -/
def execOnRequest (src dst ch : Byte) (s : State) : Host.Outcome State Fault Refusal :=
  .next (s.takeFrame .panel src dst 2 fun s => if 127 < ch.toNat then s else s.admission src ch .on)

/-- LEVEL_REQUEST (R122). LEVEL 0 is an OFF (R119); a failed body is no request (R183). -/
def execLevelRequest (src dst ch level : Byte) (s : State) : Host.Outcome State Fault Refusal :=
  .next (s.takeFrame .panel src dst 3 fun s =>
    if 127 < ch.toNat ∨ 100 < level.toNat then s
    else if level.toNat = 0 then s.admissionOff src ch
    else s.admission src ch (.level level.toNat))

/-- OFF_REQUEST (R126, R127). -/
def execOffRequest (src dst ch : Byte) (s : State) : Host.Outcome State Fault Refusal :=
  .next (s.takeFrame .panel src dst 2 fun s => if 127 < ch.toNat then s else s.admissionOff src ch)

/-- FAILED_SWITCH_FRAME: the frame is learned and goes no further (R183). -/
def execFailedSwitchFrame (src dst : Byte) (body : List Byte) (s : State) :
    Host.Outcome State Fault Refusal :=
  .next (s.takeFrame .panel src dst body.length fun s => s)

end Sys2Proof.Machine
end

