-- ==== Sys2Proof/Machine/SenseUnit.lean ====
section
/-! DEFINITION. The meanings of the Sense Unit's events: SENSE, SCAN_ROUND_START, SCAN_CONVERSION_END and REQUEST_CONVERSION_END (R46 to R53). -/

namespace Sys2Proof.Machine

/-! ### Sense requests -/

/-- A request placed in the slot; one it supersedes is answered SUPERSEDED (R49, R50). -/
def State.placeSense (s : State) (requester : Nat) (input : SenseInput) : State :=
  let placed := { s with sense := { s.sense with
    slot := some { requester := requester, input := input, begun := false } } }
  let told :=
    match s.sense.slot with
    | some old => placed.answerManage (byte old.requester) 20 { status := .superseded }
    | none => placed
  told.converterNext

/-- SENSE (R49): answered later when it is placed. One whose frame ends doze finds the converter taken by
LEISURE of the round that begins (the model's choice, log entry 48). -/
def execSense (src input : Byte) (s : State) : Host.Outcome State Fault Refusal :=
  .next (s.manage src 20 2 false (inputOfByte input) fun i s =>
    if s.control.phase = some .settle then s.refuse .notReady
    else (s.placeSense src.toNat i, none))

/-! ### Readings -/

/-- The converter saturates at 0 V and 40 V (R46). -/
def saturate (reading : Int) : Nat := (min (max reading 0) Config.readingMax).toNat

/-- The latest reading of an input is replaced (R46). -/
def SenseUnit.setReading (u : SenseUnit) (i : SenseInput) (v : Nat) : SenseUnit :=
  match i with
  | .leisure => { u with leisure := some v }
  | .chassis => { u with chassis := some v }
  | .aux => { u with aux := some v }
  | .supply => { u with supply := some v }

/-- The watch source an input feeds; SUPPLY feeds none (R46). -/
def SenseInput.source : SenseInput → Option Source
  | .leisure => some .leisureV
  | .chassis => some .chassisV
  | .aux => some .auxV
  | .supply => none

/-- A watch takes a reading of its source as a sample (R62). -/
def Watch.takeReading (i : SenseInput) (v : Nat) (w : Watch) : Watch :=
  if some w.defn.source = i.source then w.sample v else w

/-- A SUPPLY reading is judged for LAST (R53). -/
def State.judgeLast (s : State) (i : SenseInput) (v : Nat) : State :=
  if i = .supply then
    { s with sense := { s.sense with last := lastAfter s.sense.last v s.mgmt.settings.preWarning } }
  else s

/-- A reading event: the latest reading, the samples, LAST, and the condition change they make (R47). -/
def State.reading (s : State) (i : SenseInput) (v : Nat) : State :=
  let read := ({ s with sense := s.sense.setReading i v,
                        watches := s.watches.map (Watch.takeReading i v) } : State).judgeLast i v
  read.takeChange s

/-! ### The scan -/

/-- A round with nothing left to convert is finished; one that is owed begins (R47). -/
def State.finishRound (s : State) : State :=
  match s.sense.round with
  | some [] =>
    let s := { s with sense := { s.sense with round := none } }
    if s.sense.roundOwed then s.beginRound else s
  | _ => s

/-- The converter is free (R48). -/
def State.freeConverter (s : State) : State := { s with sense := { s.sense with converting := none } }

/-- SCAN_ROUND_START: the scan interval runs out (R47). No interval runs before the first round, so the
event does not occur then. -/
def execScanRoundStart (s : State) : Host.Outcome State Fault Refusal :=
  .next (if s.sense.scanTimer.isSome then s.roundDue else s)

/-- SCAN_CONVERSION_END: the reading of the scan conversion in flight, and the converter's next
conversion (R47, R48). -/
def execScanConversionEnd (reading : Int) (s : State) : Host.Outcome State Fault Refusal :=
  .next (match s.sense.converting with
    | some { input := i, forRequest := false } =>
      ((s.freeConverter.reading i (saturate reading)).finishRound).converterNext
    | _ => s)

/-- The answer to a request whose conversion has ended (R51, R185). -/
def senseAnswer (i : SenseInput) (v : Nat) : Answer := { status := .ok, data := byte i.code :: word16 v }

/-- The slot becomes empty. -/
def State.clearSlot (s : State) : State := { s with sense := { s.sense with slot := none } }

/-- A request conversion ends: its reading, and the answer if the slot still holds its request (R51). The
answer joins the reply list after the frames that the reading's condition change makes (the model's choice,
log entry 47). -/
def State.endRequestConversion (s : State) (i : SenseInput) (v : Nat) : State :=
  match s.sense.slot with
  | some { requester := q, input := _, begun := true } =>
    (((s.freeConverter.clearSlot.reading i v).answerManage (byte q) 20 (senseAnswer i v)).finishRound).converterNext
  | _ => ((s.freeConverter.reading i v).finishRound).converterNext

/-- REQUEST_CONVERSION_END (R51). -/
def execRequestConversionEnd (reading : Int) (s : State) : Host.Outcome State Fault Refusal :=
  .next (match s.sense.converting with
    | some { input := i, forRequest := true } => s.endRequestConversion i (saturate reading)
    | _ => s)

end Sys2Proof.Machine
end

