-- ==== Sys2Proof/Machine/StartUp.lean ====
section
/-! DEFINITION. The meanings of the mode, start-up and reset events: SET_MODE, WARM_RESTART, SETTLE_END, LOAD_COMPLETE, QUIET_TIMER_EXPIRY, POWER_ON, BROWN_OUT, RESET_LINE_ASSERT, RESET_LINE_RELEASE and SUPPLY_RECOVERY (R54, R150 to R163). -/

namespace Sys2Proof.Machine

/-! ### Modes -/

/-- SET MODE and WARM RESTART are refused BUSY in STARTING and while a warm-restart census runs (R151, R163). -/
def State.restarting (s : State) : Bool := s.control.mode == .starting || s.control.census.isSome

/-- SET_MODE (R151). -/
def execSetMode (src mode : Byte) (s : State) : Host.Outcome State Fault Refusal :=
  .next (s.manage src 21 2 true (modeOfByte mode) fun m s => s.unlessSaving fun s =>
    if s.restarting then s.refuse .busy
    else if s.control.mode = m then s.done
    else (s.changeMode m).done)

/-- The last reset of the reset cause record (R162). -/
def State.recordReset (s : State) (k : ResetKind) : State :=
  { s with control := { s.control with lastReset := k } }

/-- A request in the sense-request slot is answered ABORTED (R52). -/
def State.abortSense (s : State) : State :=
  match s.sense.slot with
  | some q =>
    ({ s with sense := { s.sense with slot := none } } : State).answerManage (byte q.requester) 20
      { status := .aborted }
  | none => s

/-- The dump cursor is closed (R163). -/
def State.closeCursor (s : State) : State := { s with mgmt := { s.mgmt with cursor := none } }

/-- The effects of an accepted WARM RESTART, in the order of R163. -/
def State.restartWarm (s : State) : State :=
  (((((s.recordReset .warmRestart).withdrawHeld (fun _ => true) .restart).closeCursor).abortSense).recompute).beginCensus

/-- WARM_RESTART (R163). -/
def execWarmRestart (src : Byte) (s : State) : Host.Outcome State Fault Refusal :=
  .next (s.manage src 23 1 true (some ()) fun _ s => s.unlessSaving fun s =>
    if s.restarting then s.refuse .busy else s.restartWarm.done)

/-- The scan interval lengthened as doze begins: the next round begins 2 s after the last began (R47,
log entry 26). -/
def SenseUnit.stretch (u : SenseUnit) : SenseUnit :=
  { u with scanTimer := u.scanTimer.map (· + (Config.dozeScanMs - Config.scanMs)), roundOwed := false }

/-- QUIET_TIMER_EXPIRY: doze begins (R157). -/
def execQuietTimerExpiry (s : State) : Host.Outcome State Fault Refusal :=
  .next (if s.control.quiet.isSome then
      { s with control := { s.control with doze := true, quiet := none }, sense := s.sense.stretch }
    else s)

/-! ### Start-up -/

/-- SETTLE_END: the first scan round begins, the ladder is first evaluated, and LOAD begins (R68, R159). -/
def execSettleEnd (s : State) : Host.Outcome State Fault Refusal :=
  .next (if s.control.phase = some .settle ∧ s.control.settle.isSome then
      (({ s with control := { s.control with phase := some .load, settle := none } } : State).beginRound).evaluate
        .none
    else s)

/-- The record of a load that LOAD makes live (R22, R160). -/
def LoadConfig.loaded (c : LoadConfig) : Live :=
  { config := c
    run := { state := match c.target with
                      | .module _ _ => .unknown
                      | .direct _ => .off } }

/-- The slots LOAD installs: the stored configurations, and the drafts as they stand (R160). -/
def State.loadedSlots (s : State) (configs : Vector (Option LoadConfig) 48) : Vector Slot 48 :=
  Vector.ofFn fun n => { live := configs[n].map LoadConfig.loaded, draft := s.loads.slots[n].draft }

/-- What LOAD installs when the check passes, the ladder's recompute aside (R160). No load is ON before
LOAD ends, so none stands in the stack; none of the replaced loads does afterwards. The OFF that LOAD and
the census give a direct load generates no report (the model's choice, log entry 13). -/
def State.installStore (s : State) (c : StoreContent) : State :=
  { s with
    loads := { s.loads with slots := s.loadedSlots c.configs, map := c.map }
    watches := c.watches.map Watch.fresh
    ladder := { s.ladder with live := c.ladder, stack := [] }
    mgmt := { s.mgmt with settings := c.settings }
    control := { s.control with storeValid := true } }

/-- What stands when the check fails (R160). -/
def State.installDefaults (s : State) : State :=
  { s with
    loads := { s.loads with slots := s.loadedSlots (Vector.replicate 48 none), map := Vector.replicate 128 none }
    watches := Vector.replicate 8 (Watch.fresh .disabled)
    ladder := { s.ladder with stack := [] }
    mgmt := { s.mgmt with settings := .default }
    control := { s.control with storeValid := false } }

/-- The phase becomes CENSUS and the census begins (R160, R161). -/
def State.enterCensus (s : State) : State :=
  ({ s with control := { s.control with phase := some .census } } : State).beginCensus

/-- The end of the LOAD phase, `c` being what the store held when its check passes (R160). -/
def State.endLoad (s : State) (c : Option StoreContent) : State :=
  match c with
  | some c => ((s.installStore c).recompute).enterCensus
  | none => (s.installDefaults.raise .tableLost).enterCensus

/-- LOAD_COMPLETE (R160): the check fails when the store holds no valid copy or the copy read is damaged. -/
def execLoadComplete (undamaged : Bool) (s : State) : Host.Outcome State Fault Refusal :=
  .next (if s.control.phase = some .load then
      s.endLoad (if undamaged then s.mgmt.store else none)
    else s)

/-! ### Resets that hold the part -/

/-- What holds the part in reset (R54, R162). -/
def State.holdBy (s : State) (supply line : Bool) : State :=
  { s with control := { s.control with supplyHold := supply, lineHold := line } }

/-- POWER_ON: the reset cause record is lost (R162). -/
def execPowerOn (s : State) : Host.Outcome State Fault Refusal :=
  .next (({ s with control := { s.control with
      lastReset := .powerOn, storeValid := false, supplyHold := true } } : State).volatileLost)

/-- A reset that begins while the part is already held does not change the record (R162). -/
def State.beginHold (s : State) (k : ResetKind) (supply line : Bool) : State :=
  ((if s.inResetHold then s else s.recordReset k).holdBy supply line).volatileLost

/-- BROWN_OUT (R54, R162). -/
def execBrownOut (s : State) : Host.Outcome State Fault Refusal :=
  .next (s.beginHold .brownOut true s.control.lineHold)

/-- RESET_LINE_ASSERT (R162). -/
def execResetLineAssert (s : State) : Host.Outcome State Fault Refusal :=
  .next (s.beginHold .resetLine s.control.supplyHold true)

/-- RESET_LINE_RELEASE: start-up begins unless the supply still holds the part (R162). -/
def execResetLineRelease (s : State) : Host.Outcome State Fault Refusal :=
  .next (if s.control.lineHold then (s.holdBy s.control.supplyHold false).releaseIfFree else s)

/-- SUPPLY_RECOVERY: start-up begins unless the reset line still holds the part (R54, R162). -/
def execSupplyRecovery (s : State) : Host.Outcome State Fault Refusal :=
  .next (if s.control.supplyHold then (s.holdBy false s.control.lineHold).releaseIfFree else s)

end Sys2Proof.Machine
end

