-- ==== Sys2Proof/Machine/Timers.lean ====
section
/-! DEFINITION. The meanings of the timer expiries: MIN_ON_EXPIRY, LOCKOUT_EXPIRY, ANSWER_EXPIRY, GRACE_EXPIRY_CUT, GRACE_EXPIRY_KEEP, STALENESS_EXPIRY, WATCH_DWELL_EXPIRY, EXIT_DWELL_EXPIRY, OVERRUN_EXPIRY, STAGGER_EXPIRY and HOLD_LIFETIME_EXPIRY. An expiry whose timer does not run does not occur (00, Time and events; log entries 2 and 3). -/

namespace Sys2Proof.Machine

/-! ### Timers of a load -/

/-- MIN_ON_EXPIRY: it changes no state and is reported to no block (R26). -/
def execMinOnExpiry (n : LoadNo) (s : State) : Host.Outcome State Fault Refusal :=
  .next (s.changeRun n fun _ r => { r with minOn := none })

/-- A lockout runs out: LOCKOUT becomes OFF, SHED stays SHED (R27). -/
def Runtime.lockoutEnds (r : Runtime) : Runtime :=
  { r with lockout := none, state := if r.state = .lockout then .off else r.state }

/-- LOCKOUT_EXPIRY (R27). -/
def execLockoutExpiry (n : LoadNo) (s : State) : Host.Outcome State Fault Refusal :=
  .next (match s.live? n with
    | some l =>
      if l.run.lockout.isSome then
        ((s.changeRun n fun _ r => r.lockoutEnds).reportDirect n l.run).reportLockout n
      else s
    | none => s)

/-- The effect of answer expiry on the record, the stack and NO_ANSWER (R29): a withdrawn restore makes
the load OFF and raises nothing (log entry 32). -/
def State.unanswered (s : State) (n : LoadNo) (r : Runtime) : State :=
  if r.state = .restoring ∧ r.withdrawn = true then
    s.changeRun n fun _ r => { r.becomeOff with owed := none, answer := none }
  else
    ((s.changeRun n fun _ r => { r.becomeAbsent with answer := none }).unstack n).raise .noAnswer

/-- ANSWER_EXPIRY (R29). -/
def execAnswerExpiry (n : LoadNo) (s : State) : Host.Outcome State Fault Refusal :=
  .next (match s.live? n with
    | some l =>
      if l.run.answer.isSome then
        ((((s.unanswered n l.run).restoreEnded n).leaveCensus n).reportDraw s).censusCheck
      else s
    | none => s)

/-- The grace timer of a WINDING load with this expiry action runs (R95, R97, R98). -/
def Live.graceRuns (l : Live) (action : ExpiryAction) : Bool :=
  l.run.state == .winding && l.run.grace.isSome &&
    match l.config.method with
    | .wind _ a => a == action
    | .cut => false

/-- GRACE_EXPIRY_CUT (R97). -/
def execGraceExpiryCut (n : LoadNo) (s : State) : Host.Outcome State Fault Refusal :=
  .next (match s.live? n with
    | some l =>
      if l.graceRuns .cut then
        (((s.raise .windTimeout).windDownEnds n l).commandOff n).reportDraw s
      else s
    | none => s)

/-- GRACE_EXPIRY_KEEP (R98): the wait is over and starts no command. A census QUERY that a warm restart left
owed and unsent stays owed, for R31 names no removal at this expiry (the model's choice, log entry 44). -/
def execGraceExpiryKeep (n : LoadNo) (s : State) : Host.Outcome State Fault Refusal :=
  .next (match s.live? n with
    | some l =>
      if l.graceRuns .keep then
        (s.raise .windTimeout).changeRun n fun _ r => { r with overdue := true, grace := none }
      else s
    | none => s)

/-! ### The meter and the watches -/

/-- A watch at the rise of STALE: on a meter source its dwell timer is cancelled (R58, R63). -/
def Watch.goStale (w : Watch) : Watch := if w.defn.source.isMeter then w.stopDwell else w

/-- STALE rises (R58). -/
def State.goStale (s : State) : State :=
  { s with meter := { s.meter with stale := true, staleTimer := none },
           watches := s.watches.map Watch.goStale }

/-- STALENESS_EXPIRY (R58). -/
def execStalenessExpiry (s : State) : Host.Outcome State Fault Refusal :=
  .next (if s.meter.staleTimer.isSome then ((s.goStale).raise .meterStale).takeChange s else s)

/-- Changes one watch. -/
def State.modifyWatch (s : State) (w : WatchNo) (f : Watch → Watch) : State :=
  { s with watches := s.watches.set w (f s.watches[w]) }

/-- WATCH_DWELL_EXPIRY (R62). -/
def execWatchDwellExpiry (w : WatchNo) (s : State) : Host.Outcome State Fault Refusal :=
  .next (if s.watches[w].dwell.isSome then (s.modifyWatch w Watch.expire).takeChange s else s)

/-! ### The ladder -/

/-- EXIT_DWELL_EXPIRY (R77). -/
def execExitDwellExpiry (s : State) : Host.Outcome State Fault Refusal :=
  .next (if s.ladder.exitDwell.isSome then (s.exitExpired).takeOverFall s else s)

/-- The overrun timer starts again and OVER stands high (R86). -/
def State.raiseOver (s : State) : State :=
  { s with ladder := { s.ladder with
      overrun := some (s.ladder.live.overrunDwell * 1000), overHigh := true } }

/-- The rise of OVER as a condition change of its own (R67, R86). -/
def State.takeOverRise (s : State) : State := ((s.changeEndsDoze).evaluate overRise).takeOverFall s

/-- OVERRUN_EXPIRY (R86): the budget shed, and after it the rise of OVER if it rose. -/
def execOverrunExpiry (s : State) : Host.Outcome State Fault Refusal :=
  .next (if s.ladder.overrun.isSome then
      if s.ladder.overHigh then s.raiseOver.budgetShed else s.raiseOver.budgetShed.takeOverRise
    else s)

/-- The stagger has run out: a scan, and "sequencer idle" to the Admission Unit when it finds nothing
eligible (R115, R116). -/
def State.staggerEnds (s : State) : State :=
  match (s.setSeq .idle).nextRestore with
  | some e => (s.setSeq .idle).restore e
  | none => (s.setSeq .idle).replayEvent

/-- STAGGER_EXPIRY (R115). -/
def execStaggerExpiry (s : State) : Host.Outcome State Fault Refusal :=
  .next (match s.ladder.seq with
    | .stagger _ => s.staggerEnds
    | .idle => s
    | .restoring _ => s)

/-! ### The Hold Queue -/

/-- HOLD_LIFETIME_EXPIRY: of the entry held for a load (R130). -/
def execHoldLifetimeExpiry (n : LoadNo) (s : State) : Host.Outcome State Fault Refusal :=
  .next (match s.heldFor n with
    | some h =>
      if h.lifetime.isSome then (s.decideHeld n (.withdrawn .expired)).raise .holdExpired else s
    | none => s)

end Sys2Proof.Machine
end

