-- ==== Sys2Proof/Machine/Transmit.lean ====
section
/-! DEFINITION. The meanings of the transmitters' events: LOAD_TX_START, LOAD_TX_END, PANEL_TX_START and PANEL_TX_END (R144, R145, R147). -/

namespace Sys2Proof.Machine

/-! ### The choice of the load-line transmitter (R144) -/

/-- Owed OFF and WIND commands form the first class. -/
def Runtime.owesDown (r : Runtime) : Bool :=
  match r.owed with
  | some .off => true
  | some .wind => true
  | some (.on _ _) => false
  | some .query => false
  | none => false

/-- The moment an owed ON counts from. -/
def Runtime.onSince (r : Runtime) : Option Nat :=
  match r.owed with
  | some (.on _ since) => some since
  | some .off => none
  | some .wind => none
  | some .query => none
  | none => none

/-- The older of an owed ON found so far and that of load `n`. -/
def State.olderOn (s : State) (best : Option (LoadNo × Nat)) (n : LoadNo) : Option (LoadNo × Nat) :=
  match (s.live? n).bind (·.run.onSince), best with
  | none, _ => best
  | some since, none => some (n, since)
  | some since, some (m, t) => if since < t then some (n, since) else some (m, t)

/-- The load of the oldest owed ON, the second class. -/
def State.oldestOn (s : State) : Option LoadNo := ((List.finRange 48).foldl s.olderOn none).map (·.1)

/-- The first load of the third class, in ascending load number. -/
def State.firstQuery (s : State) : Option LoadNo :=
  (List.finRange 48).find? fun n => (s.live? n).any fun l => l.run.owed == some .query

/-- The load whose owed command is sent next, by the first class that is not empty. -/
def State.nextOwed (s : State) : Option LoadNo :=
  ((s.inShedOrder fun l => l.run.owesDown).head?).or (s.oldestOn.or s.firstQuery)

/-! ### Starting an owed command (R31, R145, R183) -/

/-- The level an owed ON of a dimmable load goes out with: the recorded one (R183); its own when the load
has gone off since and no level is recorded, else 100 % (log entry 11). -/
def Runtime.sentLevel (r : Runtime) (owed : Option Nat) : Nat := (r.level.or owed).getD 100

/-- The command code and level of an owed command's frame (R183). -/
def owedWire (c : LoadConfig) (r : Runtime) : Owed → Nat × Option Nat
  | .on level _ => if c.dimmable then (2, some (r.sentLevel level)) else (1, none)
  | .off => (3, none)
  | .wind => (4, none)
  | .query => (5, none)

/-- The command's start starts the answer timer (R28): a QUERY, any command of an UNKNOWN load, the ON
or OFF of a RESTORING load. -/
def startsAnswer (state : LoadState) : Owed → Bool
  | .query => true
  | .off => state == .unknown || state == .restoring
  | .on _ _ => state == .unknown || state == .restoring
  | .wind => state == .unknown

/-- The record once its owed command has started: the command is cleared and its timer starts (R31, R94).
A WIND still owed when an OFF or STOPPED report has ended the wind-down is sent and starts no grace timer,
which R23 gives to WINDING loads alone (the model's choice, log entry 38). -/
def Runtime.started (o : Owed) (answerMs : Nat) (c : LoadConfig) (r : Runtime) : Runtime :=
  { r with
    owed := none
    answer := if startsAnswer r.state o then some answerMs else r.answer
    grace := if o = .wind ∧ r.state = .winding then some (c.method.grace * 1000) else r.grace }

/-- The frame in flight on the load line (R144). -/
def State.setLoadTx (s : State) (f : Option Frame) : State := { s with ports := { s.ports with loadTx := f } }

/-- The answer timer's length as the setting stands (R28). -/
def State.answerMs (s : State) : Nat := s.mgmt.settings.answerTimeout * 100

/-- The transmitter starts the owed command of a load (R145). A load whose command starts no answer
timer leaves a census set at this moment (R163). -/
def State.sendOwed (s : State) (n : LoadNo) : State :=
  match s.live? n with
  | none => s
  | some l =>
    match l.run.owed, l.config.target with
    | some o, .module node out =>
      let wire := owedWire l.config l.run o
      let sent := (s.changeRun n (Runtime.started o s.answerMs)).setLoadTx
        (some (s.loadSwitch node out wire.1 wire.2))
      if startsAnswer l.run.state o then sent else (sent.leaveCensus n).censusCheck
    | _, _ => s

/-- The oldest frame of the relay FIFO toward the load line starts (R145). -/
def State.sendRelayed (s : State) : State :=
  match s.ports.loadFifo with
  | f :: rest => { s with ports := { s.ports with loadFifo := rest, loadTx := some f } }
  | [] => s

/-- LOAD_TX_START: the transmitter chooses a frame and starts it (R144, R145). -/
def execLoadTxStart (s : State) : Host.Outcome State Fault Refusal :=
  .next (match s.ports.loadTx with
    | some _ => s
    | none =>
      match s.nextOwed with
      | some n => s.sendOwed n
      | none => s.sendRelayed)

/-- LOAD_TX_END: the frame in flight on the load line ends (R145). -/
def execLoadTxEnd (s : State) : Host.Outcome State Fault Refusal := .next (s.setLoadTx none)

/-! ### The panel-line transmitter (R147) -/

/-- The P-port transmitter's choice: the reply list before the relay FIFO (R147). -/
def Ports.startPanel (p : Ports) : Ports :=
  match p.panelTx, p.replies, p.panelFifo with
  | some _, _, _ => p
  | none, f :: rest, _ => { p with panelTx := some f, replies := rest }
  | none, [], f :: rest => { p with panelTx := some f, panelFifo := rest }
  | none, [], [] => p

/-- PANEL_TX_START (R147). -/
def execPanelTxStart (s : State) : Host.Outcome State Fault Refusal :=
  .next { s with ports := s.ports.startPanel }

/-- PANEL_TX_END (R147). -/
def execPanelTxEnd (s : State) : Host.Outcome State Fault Refusal :=
  .next { s with ports := { s.ports with panelTx := none } }

end Sys2Proof.Machine
end

