-- ==== Sys2Proof/Machine/Dispatch.lean ====
section
/-! DEFINITION. One arm per command: the meaning it has. -/

namespace Sys2Proof.Machine

def exec (i : Instr) (s : State) : Host.Outcome State Fault Refusal :=
  match i with
  | .onRequest src dst channel => Sys2Proof.Machine.execOnRequest src dst channel s
  | .levelRequest src dst channel level => Sys2Proof.Machine.execLevelRequest src dst channel level s
  | .offRequest src dst channel => Sys2Proof.Machine.execOffRequest src dst channel s
  | .onReport src dst output level => Sys2Proof.Machine.execOnReport src dst output level s
  | .offReport src dst output => Sys2Proof.Machine.execOffReport src dst output s
  | .windingReport src dst output => Sys2Proof.Machine.execWindingReport src dst output s
  | .stoppedReport src dst output => Sys2Proof.Machine.execStoppedReport src dst output s
  | .faultReport src dst output => Sys2Proof.Machine.execFaultReport src dst output s
  | .meterArrival src dst body => Sys2Proof.Machine.execMeterArrival src dst body s
  | .dataFrame line src dst body => Sys2Proof.Machine.execDataFrame line src dst body s
  | .frameIgnored line kind src dst body => Sys2Proof.Machine.execFrameIgnored line kind src dst body s
  | .frameDiscarded line bytes => Sys2Proof.Machine.execFrameDiscarded line bytes s
  | .readEntry src load copy => Sys2Proof.Machine.execReadEntry src load copy s
  | .writeDraft src load record => Sys2Proof.Machine.execWriteDraft src load record s
  | .discardDraft src load => Sys2Proof.Machine.execDiscardDraft src load s
  | .publish src load => Sys2Proof.Machine.execPublish src load s
  | .retire src load => Sys2Proof.Machine.execRetire src load s
  | .map src channel load => Sys2Proof.Machine.execMap src channel load s
  | .readMap src start => Sys2Proof.Machine.execReadMap src start s
  | .writeStage src record => Sys2Proof.Machine.execWriteStage src record s
  | .readStage src stage copy => Sys2Proof.Machine.execReadStage src stage copy s
  | .publishLadder src => Sys2Proof.Machine.execPublishLadder src s
  | .writeWatch src record => Sys2Proof.Machine.execWriteWatch src record s
  | .readWatch src watch => Sys2Proof.Machine.execReadWatch src watch s
  | .writeSetting src code value => Sys2Proof.Machine.execWriteSetting src code value s
  | .readSetting src code => Sys2Proof.Machine.execReadSetting src code s
  | .readStatus src => Sys2Proof.Machine.execReadStatus src s
  | .readResetCause src => Sys2Proof.Machine.execReadResetCause src s
  | .dumpOpen src collection start => Sys2Proof.Machine.execDumpOpen src collection start s
  | .dumpNext src => Sys2Proof.Machine.execDumpNext src s
  | .dumpClose src => Sys2Proof.Machine.execDumpClose src s
  | .sense src input => Sys2Proof.Machine.execSense src input s
  | .setMode src mode => Sys2Proof.Machine.execSetMode src mode s
  | .save src => Sys2Proof.Machine.execSave src s
  | .warmRestart src => Sys2Proof.Machine.execWarmRestart src s
  | .attentionQuery src => Sys2Proof.Machine.execAttentionQuery src s
  | .attentionClear src cause => Sys2Proof.Machine.execAttentionClear src cause s
  | .attentionEnable src cause => Sys2Proof.Machine.execAttentionEnable src cause s
  | .attentionDisable src cause => Sys2Proof.Machine.execAttentionDisable src cause s
  | .attentionRelease src cause => Sys2Proof.Machine.execAttentionRelease src cause s
  | .manageUnknownRequest src body => Sys2Proof.Machine.execManageUnknownRequest src body s
  | .loadTxStart => Sys2Proof.Machine.execLoadTxStart s
  | .loadTxEnd => Sys2Proof.Machine.execLoadTxEnd s
  | .panelTxStart => Sys2Proof.Machine.execPanelTxStart s
  | .panelTxEnd => Sys2Proof.Machine.execPanelTxEnd s
  | .minOnExpiry n => Sys2Proof.Machine.execMinOnExpiry n s
  | .lockoutExpiry n => Sys2Proof.Machine.execLockoutExpiry n s
  | .answerExpiry n => Sys2Proof.Machine.execAnswerExpiry n s
  | .graceExpiryCut n => Sys2Proof.Machine.execGraceExpiryCut n s
  | .graceExpiryKeep n => Sys2Proof.Machine.execGraceExpiryKeep n s
  | .stalenessExpiry => Sys2Proof.Machine.execStalenessExpiry s
  | .watchDwellExpiry w => Sys2Proof.Machine.execWatchDwellExpiry w s
  | .exitDwellExpiry => Sys2Proof.Machine.execExitDwellExpiry s
  | .overrunExpiry => Sys2Proof.Machine.execOverrunExpiry s
  | .staggerExpiry => Sys2Proof.Machine.execStaggerExpiry s
  | .holdLifetimeExpiry n => Sys2Proof.Machine.execHoldLifetimeExpiry n s
  | .quietTimerExpiry => Sys2Proof.Machine.execQuietTimerExpiry s
  | .scanRoundStart => Sys2Proof.Machine.execScanRoundStart s
  | .scanConversionEnd reading => Sys2Proof.Machine.execScanConversionEnd reading s
  | .requestConversionEnd reading => Sys2Proof.Machine.execRequestConversionEnd reading s
  | .settleEnd => Sys2Proof.Machine.execSettleEnd s
  | .loadComplete undamaged => Sys2Proof.Machine.execLoadComplete undamaged s
  | .saveComplete copyMatches => Sys2Proof.Machine.execSaveComplete copyMatches s
  | .powerOn => Sys2Proof.Machine.execPowerOn s
  | .brownOut => Sys2Proof.Machine.execBrownOut s
  | .resetLineAssert => Sys2Proof.Machine.execResetLineAssert s
  | .resetLineRelease => Sys2Proof.Machine.execResetLineRelease s
  | .supplyRecovery => Sys2Proof.Machine.execSupplyRecovery s
  | .failedSwitchFrame src dst body => Sys2Proof.Machine.execFailedSwitchFrame src dst body s
  | .failedStateFrame src dst body => Sys2Proof.Machine.execFailedStateFrame src dst body s

end Sys2Proof.Machine
end

