-- ==== Sys2Proof/Machine/Step.lean ====
section
/-! DEFINITION. One step of the part: the command at the front of the queue, or 1 ms of time when no command waits. -/

namespace Sys2Proof.Machine

/-- Takes the command at the front of `pending` and runs it on the queue's rest; with no command
waiting 1 ms passes (log entry 1). -/
def step (s : State) : Host.Outcome State Fault Refusal :=
  match s.pending with
  | c :: rest => exec c { s with pending := rest }
  | [] => .next s.tick

/-- Puts a command at the front of the queue. -/
def State.putFirst (s : State) (c : Instr) : State := { s with pending := c :: s.pending }

/-- `s` with the command a table word spells put first; no word spells one (log entry 34). -/
def State.withFetchWord (s : State) (nbits w : Nat) : State :=
  match decodeTableWord nbits w with
  | some c => s.putFirst c
  | none => s

end Sys2Proof.Machine
end

