-- ==== Sys2Proof/WellFormed.lean ====
section
/-! DEFINITION. Which commands are well formed: every operand within what the row's rule allows. -/

namespace Sys2Proof

/-- A line header a good frame may carry (R137). -/
def headerOk (src dst : Byte) : Bool := sourceOk src && destinationOk dst

/-- The operands of the command are what its row's rule lets arrive. -/
def Instr.wellFormed : Instr → Bool
  | .onRequest src dst ch => headerOk src dst && ch.toNat ≤ 127
  | .levelRequest src dst ch level =>
    headerOk src dst && ch.toNat ≤ 127 && 1 ≤ level.toNat && level.toNat ≤ 100
  | .offRequest src dst ch => headerOk src dst && ch.toNat ≤ 127
  | .onReport src dst out level =>
    headerOk src dst && out.toNat ≤ 15 && level.all (fun l => 1 ≤ l.toNat && l.toNat ≤ 100)
  | .offReport src dst out => headerOk src dst && out.toNat ≤ 15
  | .windingReport src dst out => headerOk src dst && out.toNat ≤ 15
  | .stoppedReport src dst out => headerOk src dst && out.toNat ≤ 15
  | .faultReport src dst out => headerOk src dst && out.toNat ≤ 15
  | .meterArrival src dst body => headerOk src dst && body.length ≤ Config.bodyMax
  | .dataFrame _ src dst body => headerOk src dst && body.length ≤ Config.bodyMax
  | .frameIgnored line kind src dst body =>
    headerOk src dst && ignoredKind line kind false && body.length ≤ Config.bodyMax
  | .frameDiscarded _ bytes => (checkFrame bytes).isNone
  | .readEntry src load copy => sourceOk src && load.toNat < 48 && 1 ≤ copy.toNat && copy.toNat ≤ 3
  | .writeDraft src load record => sourceOk src && load.toNat < 48 && record.length == 13
  | .discardDraft src load => sourceOk src && load.toNat < 48
  | .publish src load => sourceOk src && load.toNat < 48
  | .retire src load => sourceOk src && load.toNat < 48
  | .map src ch load => sourceOk src && ch.toNat ≤ 127 && (load.toNat < 48 || load == 255)
  | .readMap src start => sourceOk src && start.toNat ≤ 127
  | .writeStage src record => sourceOk src && record.length == 14
  | .readStage src stage copy => sourceOk src && stage.toNat ≤ 7 && 1 ≤ copy.toNat && copy.toNat ≤ 2
  | .publishLadder src => sourceOk src
  | .writeWatch src record => sourceOk src && record.length == 8
  | .readWatch src watch => sourceOk src && 1 ≤ watch.toNat && watch.toNat ≤ 8
  | .writeSetting src code value =>
    sourceOk src && 1 ≤ code.toNat && code.toNat ≤ 8
      && value.length == (if code = 3 then 4 else if code = 7 then 2 else 1)
  | .readSetting src code => sourceOk src && 1 ≤ code.toNat && code.toNat ≤ 8
  | .readStatus src => sourceOk src
  | .readResetCause src => sourceOk src
  | .dumpOpen src collection start =>
    sourceOk src && dumpIndexOk collection start
  | .dumpNext src => sourceOk src
  | .dumpClose src => sourceOk src
  | .sense src input => sourceOk src && 1 ≤ input.toNat && input.toNat ≤ 4
  | .setMode src mode => sourceOk src && 1 ≤ mode.toNat && mode.toNat ≤ 3
  | .save src => sourceOk src
  | .warmRestart src => sourceOk src
  | .attentionQuery src => sourceOk src
  | .attentionClear src cause => sourceOk src && 1 ≤ cause.toNat && cause.toNat ≤ 15
  | .attentionEnable src cause => sourceOk src && 1 ≤ cause.toNat && cause.toNat ≤ 15
  | .attentionDisable src cause => sourceOk src && 1 ≤ cause.toNat && cause.toNat ≤ 15
  | .attentionRelease src cause => sourceOk src && 1 ≤ cause.toNat && cause.toNat ≤ 15
  | .manageUnknownRequest src body =>
    sourceOk src && body.length ≤ Config.bodyMax && manageCommand src body == .manageUnknownRequest src body
  | .loadTxStart => true
  | .loadTxEnd => true
  | .panelTxStart => true
  | .panelTxEnd => true
  | .minOnExpiry _ => true
  | .lockoutExpiry _ => true
  | .answerExpiry _ => true
  | .graceExpiryCut _ => true
  | .graceExpiryKeep _ => true
  | .stalenessExpiry => true
  | .watchDwellExpiry _ => true
  | .exitDwellExpiry => true
  | .overrunExpiry => true
  | .staggerExpiry => true
  | .holdLifetimeExpiry _ => true
  | .quietTimerExpiry => true
  | .scanRoundStart => true
  | .scanConversionEnd _ => true
  | .requestConversionEnd _ => true
  | .settleEnd => true
  | .loadComplete _ => true
  | .saveComplete _ => true
  | .powerOn => true
  | .brownOut => true
  | .resetLineAssert => true
  | .resetLineRelease => true
  | .supplyRecovery => true
  | .failedSwitchFrame src dst body =>
    headerOk src dst && body.length ≤ Config.bodyMax
      && switchCommand src dst body == .failedSwitchFrame src dst body
  | .failedStateFrame src dst body =>
    headerOk src dst && body.length ≤ Config.bodyMax
      && stateCommand src dst body == .failedStateFrame src dst body

end Sys2Proof
end

