-- ==== Sys2Proof/Safety.lean ====
section
/-! DEFINITION. The laws the manual states once for the part's collections, as predicates of a state: bounded lists (R129, R143, R146), the flags of a cause (R177), the ladder (R71), the settings (R166), the phase (R150), the Shed Stack (R88), the restore (R105), the Hold Queue (R129) and the active stage (R155); and the words the statements use of a frame that is heard and a request that is taken. -/

namespace Sys2Proof.Machine

/-- The loads of the Shed Stack, top first. -/
def State.stackLoads (s : State) : List LoadNo := s.ladder.stack.map (·.load)

/-- The loads of the Hold Queue, oldest first. -/
def State.heldLoads (s : State) : List LoadNo := s.hold.map (·.load)

/-- No list holds more than the manual gives it room for (R129, R143, R146). -/
structure State.Bounded (s : State) : Prop where
  replies : s.ports.replies.length ≤ Config.replyDepth
  panelFifo : s.ports.panelFifo.length ≤ Config.fifoDepth
  loadFifo : s.ports.loadFifo.length ≤ Config.fifoDepth
  hold : s.hold.length ≤ Config.holdDepth

/-- A cause is in service only while it is pending (R177). -/
def State.FlagsLaw (s : State) : Prop :=
  ∀ i : Fin 15, s.attention[i].inService = true → s.attention[i].pending = true

/-- The law of the ladder, and its patterns (R71). -/
def Ladder.Lawful (l : Ladder) : Prop := l.ordered = true ∧ l.patterned = true

/-- The settings lie in the ranges of R166. -/
structure Settings.Lawful (st : Settings) : Prop where
  nodeAddress : 1 ≤ st.nodeAddress ∧ st.nodeAddress ≤ 62
  monitorNode : 1 ≤ st.monitorNode ∧ st.monitorNode ≤ 62
  managers : st.managers.length = 4 ∧ (∀ a ∈ st.managers, a ≤ 62) ∧ noRepeats st.managers = true
  answerTimeout : 2 ≤ st.answerTimeout ∧ st.answerTimeout ≤ 50
  staleTimeout : 1 ≤ st.staleTimeout ∧ st.staleTimeout ≤ 60
  holdLifetime : st.holdLifetime ≤ 240
  preWarning : 60 ≤ st.preWarning ∧ st.preWarning ≤ 300
  startMode : st.startMode ≠ .starting

/-- The ladder and the settings of a store content keep their laws (R160, R174). -/
structure StoreContent.Lawful (c : StoreContent) : Prop where
  ladder : c.ladder.Lawful
  settings : c.settings.Lawful

/-- The tables the part acts on, and the copies a save or the store holds of them (R71, R166, R174). -/
structure State.TablesLaw (s : State) : Prop where
  ladder : s.ladder.live.Lawful
  settings : s.mgmt.settings.Lawful
  saved : ∀ op, s.mgmt.save = some op → op.content.Lawful
  stored : ∀ c, s.mgmt.store = some c → c.Lawful

/-- There is a start-up phase exactly in STARTING (R150). -/
def State.PhaseLaw (s : State) : Prop := s.control.phase.isSome = true ↔ s.control.mode = .starting

/-- The law of the stack (R88). -/
structure State.StackLaw (s : State) : Prop where
  once : s.stackLoads.Nodup
  exact : ∀ n, n ∈ s.stackLoads ↔ s.state? n = some .shed ∨ s.state? n = some .winding
  governed : ∀ n l, n ∈ s.stackLoads → s.live? n = some l →
    l.config.authority = .governed ∧ 1 ≤ l.config.tier
  bypass : s.control.mode = .bypass → s.stackLoads = []

/-- The law of the restore: a RESTORING load is the one the sequencer holds, so there is at most one
(R105). -/
def State.RestoreLaw (s : State) : Prop :=
  ∀ n, s.state? n = some .restoring → s.ladder.seq = .restoring n

/-- The law of the queue, its length aside: one entry a load, each load live and neither ON nor
RESTORING (R129); nothing is held in STARTING (R119). -/
structure State.QueueLaw (s : State) : Prop where
  once : s.heldLoads.Nodup
  waiting : ∀ n, n ∈ s.heldLoads → ∃ st, s.state? n = some st ∧ st ≠ .on ∧ st ≠ .restoring
  starting : s.control.mode = .starting → s.heldLoads = []

/-- Every law above. -/
structure State.Lawful (s : State) : Prop where
  bounded : s.Bounded
  flags : s.FlagsLaw
  tables : s.TablesLaw
  phase : s.PhaseLaw
  stack : s.StackLaw
  restore : s.RestoreLaw
  queue : s.QueueLaw

/-- Every upper stage has a cut tier of 1 to 8 (R69). -/
def Ladder.CutTiers (l : Ladder) : Prop := ∀ i : Fin 8, 1 ≤ l.cutTier i

/-- The law of the active stage (R155), kept in STARTING too (R153), with what it rests on: the active
stage is one of the enabled ones, and the cut tiers of the live ladder, of the draft and of the stored
copies are 1 or above. -/
structure State.StageLaw (s : State) : Prop where
  enabled : s.ladder.live.enabled s.ladder.active = true
  live : s.ladder.live.CutTiers
  draft : ∀ l, s.ladder.draft = some l → l.CutTiers
  saved : ∀ op, s.mgmt.save = some op → op.content.ladder.CutTiers
  stored : ∀ c, s.mgmt.store = some c → c.ladder.CutTiers
  kept : s.control.mode ≠ .bypass → ∀ n l, s.live? n = some l → l.config.authority = .governed →
    l.run.state = .on ∨ l.run.state = .restoring →
    l.config.tier < s.cutTier ∧ (s.control.mode = .storage → l.config.tier = 0)

/-- The part is not held in reset and the frame passes its port's address and length checks, and does
not carry the part's own address as source (R137, R139, R162). -/
def State.Hears (s : State) (src dst : Byte) (length : Nat) : Prop :=
  s.inResetHold = false ∧ headerOk src dst = true ∧ length ≤ Config.bodyMax ∧ src ≠ s.own

/-- The state a frame that is heard meets: its line activity noted and its source learned (R137, R138). -/
def State.heard (s : State) (line : Line) (src : Byte) : State := s.lineActivity.learn line src.toNat

/-- A MANAGE request of this body length is taken from `src`: it is heard, and the reply list has room
for its answer (R148, R164). -/
def State.Takes (s : State) (src : Byte) (length : Nat) : Prop :=
  s.Hears src s.own length ∧ (s.heard .panel src).ports.replies.length < Config.replyDepth

/-- A write-kind request is taken from `src`, not refused DENIED (R164, R165). -/
def State.TakesWrite (s : State) (src : Byte) (length : Nat) : Prop :=
  s.Takes src length ∧ (s.mgmt.settings.managerList = [] ∨ src.toNat ∈ s.mgmt.settings.managerList)

/-- No request is held and no restore is to be found: an event handed to the restore sequencer and the
Admission Unit finds nothing to do (R109, R131). -/
def State.Settled (s : State) : Prop :=
  s.hold = [] ∧ (s.ladder.stack = [] ∨ s.ladder.seq ≠ .idle)

/-- The reports of this module output are taken for load `n`: LOAD has ended, and `n` is the one live
load with that target (R4, R9, R34). -/
def State.Reports (s : State) (src out : Byte) (n : LoadNo) (l : Live) : Prop :=
  s.beforeLoadEnds = false ∧ out.toNat ≤ 15 ∧ s.live? n = some l ∧
    l.config.target = .module src.toNat out.toNat ∧
    ∀ m k, s.live? m = some k → k.config.target = .module src.toNat out.toNat → m = n

/-- The channel's requests are judged for load `n`: the mode is not STARTING and the channel is mapped to
`n` (R7, R119). -/
def State.Reaches (s : State) (channel : Byte) (n : LoadNo) (l : Live) : Prop :=
  s.control.mode ≠ .starting ∧ channel.toNat ≤ 127 ∧ s.loads.map[channel.toNat]? = some (some n) ∧
    s.live? n = some l

/-- The command is an ON request for the channel, or a LEVEL request with a level of 1 to 100 (R119). -/
def Asks (src dst channel : Byte) (c : Instr) (w : Wish) : Prop :=
  (c = .onRequest src dst channel ∧ w = .on) ∨
    ∃ level : Byte, c = .levelRequest src dst channel level ∧ 1 ≤ level.toNat ∧ level.toNat ≤ 100 ∧
      w = .level level.toNat

/-- The level a request gives a load: none unless it is dimmable, 100 % for an ON (R123). -/
def Wish.given (w : Wish) (c : LoadConfig) : Option Nat :=
  if c.dimmable then some (match w with | .on => 100 | .level n => n) else none

/-- The record of a load that enters ON: its min-on started, its lockout cancelled (R26, R33). -/
def Runtime.nowOn (r : Runtime) (c : LoadConfig) (level : Option Nat) : Runtime :=
  { r with state := .on, minOn := if c.minOn = 0 then none else some (c.minOn * 1000), lockout := none
           level := level, prior := none, grace := none, overdue := false, userOff := false
           withdrawn := false }

/-- The record of a load that goes off outside the stack with its lockout started (R24). -/
def Runtime.nowOff (r : Runtime) (c : LoadConfig) : Runtime :=
  { r with state := if c.minOff = 0 then .off else .lockout
           lockout := if c.minOff = 0 then none else some (c.minOff * 1000), minOn := none
           level := none, prior := none, grace := none, overdue := false, userOff := false
           withdrawn := false }

/-- The record of a load that becomes OFF with no timer, level or flag. -/
def Runtime.nowPlainOff (r : Runtime) : Runtime :=
  { r with state := .off, minOn := none, lockout := none, level := none, prior := none, grace := none
           overdue := false, userOff := false, withdrawn := false }

/-- The record of a load that becomes SHED with its lockout started (R33). -/
def Runtime.nowShed (r : Runtime) (c : LoadConfig) : Runtime :=
  { r with state := .shed, lockout := if c.minOff = 0 then none else some (c.minOff * 1000), minOn := none
           grace := none, overdue := false, userOff := false, withdrawn := false }

/-- The state with another runtime record for a live load, and nothing else changed. -/
def State.withRun (s : State) (n : LoadNo) (l : Live) (r : Runtime) : State :=
  s.setSlot n { s.loads.slots[n] with live := some { l with run := r } }

/-- The state with another runtime record for a live load, which owes ON with a level beside: an ON owed at
that level already stays as it is owed, otherwise it is owed from now (R30, R144, log entry 27). -/
def State.withRunOn (s : State) (n : LoadNo) (l : Live) (r : Runtime) (level : Option Nat) : State :=
  let owed : Bool := match r.owed with
    | some (.on lv _) => lv == level
    | some .off => false
    | some .wind => false
    | some .query => false
    | none => false
  let t := s.withRun n l { r with owed := if owed then r.owed else some (.on level s.loads.decisions) }
  { t with loads := { t.loads with decisions := s.loads.decisions + if owed then 0 else 1 } }

/-- The state without the request held for a load (R129). -/
def State.withoutHeld (s : State) (n : LoadNo) : State :=
  { s with hold := s.hold.filter (·.load != n) }

/-- The end of a census, if one runs that waits for no load any more: that of a warm restart ends when its set
is empty; a start-up census ends when no live load is UNKNOWN, and the mode changes to the start mode, or to
BYPASS after a failed store check (R161, R163; the moment within an event: log entry 22). -/
def State.censusEnds (s : State) : State :=
  match s.control.census with
  | none => s
  | some asked =>
    let ended : State := { s with control := { s.control with census := none, phase := none } }
    if s.control.mode = .starting then
      if (List.finRange 48).any fun m => s.state? m == some .unknown then s
      else ended.changeMode (if s.control.storeValid then s.mgmt.settings.startMode else .bypass)
    else if asked = [] then ended
    else s

/-- The state once a load has been heard in a census, if one runs: the load is out of the set, and the census
ends if it waits for no load any more (R161, R163). -/
def State.heardInCensus (s : State) (n : LoadNo) : State :=
  match s.control.census with
  | none => s
  | some asked =>
    ({ s with control := { s.control with census := some (asked.filter (· != n)) } } : State).censusEnds

/-- The last gasp that an entry to GOVERNING or STORAGE makes while LAST is high, and then each fall of committed
draw it made, one for each load, as the decrease it is (R25, R158; log entry 9). -/
def State.gasped (s : State) : State :=
  if s.sense.last then
    let g := s.lastGasp
    ((List.finRange 48).filter fun n => g.loads.slots[n].draw < s.loads.slots[n].draw).foldl
      (fun t _ => t.drawFell) g
  else s

/-- Every request held for a load of tier 1 or above is answered WITHDRAWN(STORAGE), oldest first, and leaves
the queue (R154). -/
def State.storedWithdrawn (s : State) : State :=
  (s.hold.filter fun e => (s.live? e.load).any fun l => 1 ≤ l.config.tier).foldl (fun t e =>
    (t.withoutHeld e.load).joinReply
      { kind := .reply, src := t.own, dst := byte e.requester, body := [0, 5, byte e.channel, 15] }) s

/-- An entry to STORAGE, from the change of the mode on: the storage sweep in shed order, each shed with its
decrease, the withdrawals, the quiet timer, ENFORCED, last gasp while LAST is high, and the replay event of the
change (R150, R154, R158; the replays of the sweep: log entry 45). -/
def State.enteredStorage (s : State) : State :=
  let swept := s.inShedOrder fun l => l.config.authority == .governed && 1 ≤ l.config.tier
    && (l.run.state == .on || l.run.state == .restoring)
  let stored := (swept.foldl (fun t n => t.shed .storage n) s).storedWithdrawn
  let quiet : State := { stored with control := { stored.control with quiet := some 60000 } }
  (if swept = [] then quiet else quiet.raise .enforced).gasped.replayEvent

/-- The state with the sequencer in STAGGER from now if this load was the one being restored (R112, R115). -/
def State.withStagger (s : State) (n : LoadNo) : State :=
  { s with ladder := { s.ladder with
      seq := if s.ladder.seq = .restoring n then .stagger (s.ladder.live.stagger * 500) else s.ladder.seq } }

/-- The state with one more frame at the end of its reply list: the report the part generates for a direct
load (R44, R183). -/
def State.withReport (s : State) (body : List Byte) : State :=
  { s with ports := { s.ports with
      replies := s.ports.replies ++ [{ kind := .state, src := s.own, dst := 0, body := body }] } }

/-- The state with one more frame at the end of the relay FIFO toward the load line: a SWITCH for a module
(R143, R183). -/
def State.withSwitch (s : State) (node : Nat) (body : List Byte) : State :=
  { s with ports := { s.ports with
      loadFifo := s.ports.loadFifo ++ [{ kind := .switch, src := s.own, dst := byte node, body := body }] } }

/-- The body of the SWITCH that forwards a request for a module's output untouched (R143, R183). -/
def Wish.switchBody (w : Wish) (output : Nat) : List Byte :=
  match w with
  | .on => [byte output, 1]
  | .level n => [byte output, 2, byte n]

/-- The state with one more frame at the end of the relay FIFO toward the panel line: the rewritten
report of a load (R43, R183). -/
def State.withRelay (s : State) (body : List Byte) : State :=
  { s with ports := { s.ports with
      panelFifo := s.ports.panelFifo ++ [{ kind := .state, src := s.own, dst := 0, body := body }] } }

/-- A MANAGE request as a command gives it: its sender, its code, its body length and whether it is
write-kind (R164, R185). -/
structure Request where
  src : Byte
  code : Byte
  length : Nat
  write : Bool

/-- The MANAGE request a command is, if it is one whose body names a request (R164, R185). -/
def requestOf : Instr → Option Request
  | .readEntry src _ _ => some ⟨src, 1, 3, false⟩
  | .writeDraft src _ record => some ⟨src, 2, 2 + record.length, true⟩
  | .discardDraft src _ => some ⟨src, 3, 2, true⟩
  | .publish src _ => some ⟨src, 4, 2, true⟩
  | .retire src _ => some ⟨src, 5, 2, true⟩
  | .map src _ _ => some ⟨src, 6, 3, true⟩
  | .readMap src _ => some ⟨src, 7, 2, false⟩
  | .writeStage src record => some ⟨src, 8, 1 + record.length, true⟩
  | .readStage src _ _ => some ⟨src, 9, 3, false⟩
  | .publishLadder src => some ⟨src, 10, 1, true⟩
  | .writeWatch src record => some ⟨src, 11, 1 + record.length, true⟩
  | .readWatch src _ => some ⟨src, 12, 2, false⟩
  | .writeSetting src _ value => some ⟨src, 13, 2 + value.length, true⟩
  | .readSetting src _ => some ⟨src, 14, 2, false⟩
  | .readStatus src => some ⟨src, 15, 1, false⟩
  | .readResetCause src => some ⟨src, 16, 1, false⟩
  | .dumpOpen src _ _ => some ⟨src, 17, 3, false⟩
  | .dumpNext src => some ⟨src, 18, 1, false⟩
  | .dumpClose src => some ⟨src, 19, 1, false⟩
  | .sense src _ => some ⟨src, 20, 2, false⟩
  | .setMode src _ => some ⟨src, 21, 2, true⟩
  | .save src => some ⟨src, 22, 1, true⟩
  | .warmRestart src => some ⟨src, 23, 1, true⟩
  | .attentionQuery src => some ⟨src, 24, 1, false⟩
  | .attentionClear src _ => some ⟨src, 25, 3, true⟩
  | .attentionEnable src _ => some ⟨src, 25, 3, true⟩
  | .attentionDisable src _ => some ⟨src, 25, 3, true⟩
  | .attentionRelease src _ => some ⟨src, 25, 3, true⟩
  | _ => none

/-- The arguments of a request pass the checks that R164 makes first: the ranges of the layout, and the
record's or the value's own checks. -/
def State.argumentsOk (s : State) : Instr → Bool
  | .writeDraft _ load record => (s.draftArgs load record).isSome
  | .writeStage _ record => (stageOfRecord record).isSome
  | .writeWatch _ record => (watchOfRecord record).isSome
  | .writeSetting _ code value => (s.mgmt.settings.write code value).isSome
  | c => c.wellFormed

/-- The write-kind requests refused BUSY while a save is in flight, SAVE aside (R164). -/
def refusedWhileSaving : Instr → Bool
  | .publish _ _ => true
  | .retire _ _ => true
  | .map _ _ _ => true
  | .publishLadder _ => true
  | .writeWatch _ _ => true
  | .writeSetting _ _ _ => true
  | .setMode _ _ => true
  | .warmRestart _ => true
  | _ => false

/-- The state with one more frame at the end of its reply list: a REPLY with this body, from the part's
own address to `dst` (R146, R185). -/
def State.withReply (s : State) (dst : Byte) (body : List Byte) : State :=
  { s with ports := { s.ports with
      replies := s.ports.replies ++ [{ kind := .reply, src := s.own, dst := dst, body := body }] } }

end Sys2Proof.Machine
end

