-- ==== Sys2Proof/Certificates/Slice0/Obligations.lean ====
section
/-! DEFINITION. The statements for the provers. Results of commands are given as whole next states, so that each says what the command leaves unchanged; `heard` is the state a received frame meets, and `Takes` says that a MANAGE request is taken (Sys2Proof/Safety.lean). -/

open Sys2Proof Sys2Proof.Machine

/-! ### The step -/

/-- A step runs the command at the front of the queue on the queue's rest, and every command answers a next
state in every state: none stops the part. -/
def Obligations.StepRunsTheFrontCommand : Prop :=
  (∀ (s : State) (c : Instr) (rest : List Instr), s.pending = c :: rest →
    step s = exec c { s with pending := rest }) ∧
  (∀ (s : State) (c : Instr), step (s.putFirst c) = exec c s) ∧
  ∀ (c : Instr) (s : State), ∃ t, exec c s = .next t

/-- With no command waiting 1 ms passes: every running timer falls by 1 ms and stops at 0, and nothing
else changes (log entry 1, the model's choice). -/
def Obligations.EmptyQueueLetsOneMsPass : Prop :=
  ∀ s : State, s.pending = [] →
    step s = .next { s with
      loads := { s.loads with slots := s.loads.slots.map fun slot =>
        { slot with live := slot.live.map fun l => { l with run := { l.run with
            minOn := l.run.minOn.map (· - 1), lockout := l.run.lockout.map (· - 1),
            grace := l.run.grace.map (· - 1), answer := l.run.answer.map (· - 1) } } } }
      sense := { s.sense with scanTimer := s.sense.scanTimer.map (· - 1) }
      meter := { s.meter with staleTimer := s.meter.staleTimer.map (· - 1) }
      watches := s.watches.map fun w => { w with dwell := w.dwell.map (· - 1) }
      ladder := { s.ladder with
        exitDwell := s.ladder.exitDwell.map (· - 1), overrun := s.ladder.overrun.map (· - 1)
        seq := match s.ladder.seq with
          | .idle => .idle
          | .restoring n => .restoring n
          | .stagger left => .stagger (left - 1) }
      hold := s.hold.map fun h => { h with lifetime := h.lifetime.map (· - 1) }
      control := { s.control with
        settle := s.control.settle.map (· - 1), quiet := s.control.quiet.map (· - 1) } }

/-! ### The laws -/

/-- The state after reset keeps the laws of the collections and the law of the active stage. (The state
is the one log entry 4 chooses.) -/
def Obligations.ResetStateKeepsTheLaws : Prop := State.reset.Lawful ∧ State.reset.StageLaw

/-- Every step keeps the laws of the collections: bounded lists, in service only while pending, the
ladder's order, the settings' ranges, a phase exactly in STARTING, the stack exactly the SHED and WINDING
loads and empty in BYPASS, one RESTORING load, one held request for a load that is not on. -/
def Obligations.EveryStepKeepsTheLaws : Prop :=
  ∀ s t : State, s.Lawful → step s = .next t → t.Lawful

/-- The law of the active stage is kept by every step, and says what R155 says. -/
def Obligations.LawOfTheActiveStageIsKept : Prop :=
  (∀ s t : State, s.Lawful → s.StageLaw → step s = .next t → t.StageLaw) ∧
  ∀ s : State, s.StageLaw → ∀ n l, s.live? n = some l → l.config.authority = .governed →
    (s.control.mode = .governing ∨ s.control.mode = .storage → s.cutTier ≤ l.config.tier →
      l.run.state ≠ .on ∧ l.run.state ≠ .restoring) ∧
    (s.control.mode = .storage → 1 ≤ l.config.tier → l.run.state ≠ .on ∧ l.run.state ≠ .restoring)

/-! ### Records and frames -/

/-- A configuration record read back is the configuration it was written from, every field of it. -/
def Obligations.ConfigurationRecordRoundTrip : Prop :=
  ∀ c : LoadConfig, c.valid = true → c.record.length = 13 ∧ configOfRecord c.record = some c

/-- A stage record read back is the stage it was written from, and stage 0's its three fields; a watch
record read back is the watch it was written from. -/
def Obligations.StageAndWatchRecordsRoundTrip : Prop :=
  (∀ (d : WatchDef) (w : WatchNo), d.valid = true →
    (d.record w).length = 8 ∧ watchOfRecord (d.record w) = some (w, d)) ∧
  ∀ l : Ladder,
    (∀ i : Fin 7, 1 ≤ l.stages[i].cutTier → l.stages[i].cutTier ≤ 8 → l.stages[i].ceiling ≤ 6000 →
      l.stages[i].exitDwell ≤ 600 →
      (l.record i.succ).length = 14 ∧ stageOfRecord (l.record i.succ) = some (.upper i l.stages[i])) ∧
    (l.ceiling0 ≤ 6000 → 1 ≤ l.stagger → l.stagger ≤ 120 → 1 ≤ l.overrunDwell → l.overrunDwell ≤ 60 →
      (l.record 0).length = 14 ∧
      stageOfRecord (l.record 0) = some (.zero l.ceiling0 l.stagger l.overrunDwell))

/-- Every value READ SETTING gives is one that WRITE SETTING takes, and it sets the setting to it. -/
def Obligations.SettingValueRoundTrip : Prop :=
  ∀ (st other : Settings) (code : Byte) (value : List Byte), st.Lawful →
    st.read code = some value → ∃ st', other.write code value = some st' ∧ st'.read code = some value

/-- A frame sent and received whole passes its port's check and is the frame that was sent; with any
other check bytes it fails. -/
def Obligations.FrameCheckRoundTrip : Prop :=
  ∀ f : Frame, sourceOk f.src = true → destinationOk f.dst = true → f.body.length ≤ 16 →
    checkFrame f.wire = some f ∧
    ∀ hi lo : Byte, [hi, lo] ≠ word16 (crc16 f.content).toNat → checkFrame (f.content ++ [hi, lo]) = none

/-! ### Hearing a frame -/

/-- What hearing a frame changes: the source's side, with NODE_CONFLICT when it moved, and out of STORAGE
nothing else; in STORAGE it restarts the quiet timer as well, and ends doze with a scan round begun or owed,
behind a conversion in flight and behind a request that waits in the slot. -/
def Obligations.HearingAFrameLearnsItsSource : Prop :=
  (∀ s : State, s.control.mode = .storage →
    (s.control.doze = false →
      s.lineActivity = { s with control := { s.control with quiet := some 60000 } }) ∧
    (s.control.doze = true → ∀ round, s.sense.round = some round →
      s.lineActivity = { s with
        control := { s.control with doze := false, quiet := some 60000 }
        sense := { s.sense with roundOwed := true } }) ∧
    (s.control.doze = true → s.sense.round = none → s.sense.slot = none → s.sense.converting = none →
      s.lineActivity = { s with
        control := { s.control with doze := false, quiet := some 60000 }
        sense := { s.sense with
          round := some [.chassis, .aux, .supply], scanTimer := some 100, roundOwed := false
          converting := some { input := .leisure, forRequest := false } } }) ∧
    (s.control.doze = true → s.sense.round = none →
      let woken (slot : Option SenseRequest) (conversion : Conversion) : State := { s with
        control := { s.control with doze := false, quiet := some 60000 }
        sense := { s.sense with
          round := some [.leisure, .chassis, .aux, .supply], scanTimer := some 100, roundOwed := false
          slot := slot, converting := some conversion } }
      (∀ conversion, s.sense.converting = some conversion → s.lineActivity = woken s.sense.slot conversion) ∧
      ∀ q i, s.sense.converting = none →
        s.sense.slot = some { requester := q, input := i, begun := false } →
        s.lineActivity = woken (some { requester := q, input := i, begun := true })
          { input := i, forRequest := true })) ∧
  (∀ s : State, s.control.mode ≠ .storage → s.lineActivity = s) ∧
  ∀ (s : State) (line : Line) (src : Byte), 1 ≤ src.toNat → src.toNat ≤ 62 →
    let learned : State :=
      { s.lineActivity with sides := s.sides.setIfInBounds (src.toNat - 1) (Line.side line) }
    (s.side src.toNat = .unseen ∨ s.side src.toNat = Line.side line → s.heard line src = learned) ∧
    (s.side src.toNat ≠ .unseen → s.side src.toNat ≠ Line.side line →
      s.heard line src = learned.raise .nodeConflict) ∧
    (s.heard line src).side src.toNat = Line.side line ∧
    ∀ a, 1 ≤ a → a ≤ 62 → a ≠ src.toNat → (s.heard line src).side a = s.side a

/-- Frames that concern no block of their line, and bodies that fail their checks, are learned and go no
further. A STATE report that matches no live load's target, or that comes before LOAD has ended, is dropped as
well. A frame that fails its port's check raises LINE_ERROR (bytes whose number disagrees with their length
byte among them, log entry 42), and a good frame that carries the part's own address as source raises
NODE_CONFLICT; both are line activity, and neither is learned or passed on. -/
def Obligations.FramesThatGoNoFurther : Prop :=
  (∀ (s : State) (line : Line) (src dst : Byte) (body : List Byte), s.Hears src dst body.length →
    (∀ kind, ignoredKind line kind (dst == s.own) = true →
      exec (.frameIgnored line kind src dst body) s = .next (s.heard line src)) ∧
    exec (.failedSwitchFrame src dst body) s = .next (s.heard .panel src) ∧
    exec (.failedStateFrame src dst body) s = .next (s.heard .load src)) ∧
  (∀ (s : State) (src dst out : Byte) (level : Option Byte) (c : Instr), s.Hears src dst 3 →
    (c = .onReport src dst out level ∨ c = .offReport src dst out ∨ c = .windingReport src dst out ∨
      c = .stoppedReport src dst out ∨ c = .faultReport src dst out) →
    (s.control.phase = some .settle ∨ s.control.phase = some .load ∨
      ∀ n l, s.live? n = some l → l.config.target ≠ .module src.toNat out.toNat) →
    exec c s = .next (s.heard .load src)) ∧
  ∀ (s : State) (line : Line), s.inResetHold = false →
    (∀ bytes, checkFrame bytes = none →
      exec (.frameDiscarded line bytes) s = .next (s.lineActivity.raise .lineError)) ∧
    (∀ dst body, headerOk s.own dst = true → body.length ≤ 16 →
      exec (.dataFrame line s.own dst body) s = .next (s.lineActivity.raise .nodeConflict) ∧
      exec (.meterArrival s.own dst body) s = .next (s.lineActivity.raise .nodeConflict) ∧
      exec (.failedSwitchFrame s.own dst body) s = .next (s.lineActivity.raise .nodeConflict)) ∧
    ∀ c, (s.lineActivity.raise c).sides = s.sides ∧ (s.lineActivity.raise c).loads = s.loads ∧
      (s.lineActivity.raise c).attention[c.index].pending = true

/-- A DATA frame crosses to a broadcast, to an UNSEEN address and to an address on the other side, and to
no other; it joins the FIFO toward the other line unchanged, or is dropped with RELAY_OVERFLOW. -/
def Obligations.DataCrossesByTheNodeSideTable : Prop :=
  ∀ (s : State) (line : Line) (src dst : Byte) (body : List Byte), s.Hears src dst body.length →
    let h := s.heard line src
    let frame : Frame := { kind := .data, src := src, dst := dst, body := body }
    let crosses : Prop := dst ≠ s.own ∧ (dst = 0 ∨ h.side dst.toNat ≠ Line.side line)
    (¬ crosses → exec (.dataFrame line src dst body) s = .next h) ∧
    (crosses → line = .panel → s.ports.loadFifo.length < 16 →
      exec (.dataFrame line src dst body) s = .next { h with
        ports := { h.ports with loadFifo := h.ports.loadFifo ++ [frame] } }) ∧
    (crosses → line = .load → s.ports.panelFifo.length < 16 →
      exec (.dataFrame line src dst body) s = .next { h with
        ports := { h.ports with panelFifo := h.ports.panelFifo ++ [frame] } }) ∧
    (crosses → line = .panel → 16 ≤ s.ports.loadFifo.length →
      exec (.dataFrame line src dst body) s = .next (h.raise .relayOverflow)) ∧
    (crosses → line = .load → 16 ≤ s.ports.panelFifo.length →
      exec (.dataFrame line src dst body) s = .next (h.raise .relayOverflow))

/-! ### Taking a MANAGE request -/

/-- A request that finds the reply list full is discarded unexecuted with RELAY_OVERFLOW; one whose
arguments fail is refused BAD_ARG, and then a write-kind one from a node outside a non-empty manager list
is refused DENIED. A refused request changes nothing. (That the list's frames are counted once the source is
learned: log entry 41.) -/
def Obligations.RequestsAreDiscardedOrRefused : Prop :=
  (∀ (s : State) (c : Instr) (r : Request), requestOf c = some r → s.Hears r.src s.own r.length →
    8 ≤ (s.heard .panel r.src).ports.replies.length →
    exec c s = .next ((s.heard .panel r.src).raise .relayOverflow)) ∧
  ∀ (s : State) (c : Instr) (r : Request), requestOf c = some r → s.Takes r.src r.length →
    (s.argumentsOk c = false → exec c s = .next ((s.heard .panel r.src).withReply r.src [r.code, 2])) ∧
    (s.argumentsOk c = true → r.write = true → s.mgmt.settings.managerList ≠ [] →
      r.src.toNat ∉ s.mgmt.settings.managerList →
      exec c s = .next ((s.heard .panel r.src).withReply r.src [r.code, 1]))

/-- While a save is in flight the requests that change what is being written are refused BUSY. -/
def Obligations.RequestsRefusedBusyWhileSaving : Prop :=
  ∀ (s : State) (c : Instr) (r : Request), requestOf c = some r → s.TakesWrite r.src r.length →
    s.mgmt.save.isSome = true →
    (refusedWhileSaving c = true → s.argumentsOk c = true →
      exec c s = .next ((s.heard .panel r.src).withReply r.src [r.code, 4])) ∧
    (∀ src, c = .save src → s.control.phase ≠ some .settle → s.control.phase ≠ some .load →
      exec c s = .next ((s.heard .panel src).withReply src [22, 4]))

/-- A body that names no request is answered BAD_ARG with the code it carries, whatever that is; the code
answered for an empty body is a free value (log entry 7). -/
def Obligations.UnknownRequestIsAnsweredBadArg : Prop :=
  ∀ (s : State) (src : Byte) (body : List Byte), s.Takes src body.length →
    manageCommand src body = .manageUnknownRequest src body →
    (∀ code rest, body = code :: rest →
      exec (.manageUnknownRequest src body) s = .next ((s.heard .panel src).withReply src [code, 2])) ∧
    (body = [] → ∃ code,
      exec (.manageUnknownRequest src body) s =
        .next { (s.heard .panel src).withReply src [code, 2] with choices := s.choices + 1 })

/-! ### Reads -/

/-- READ ENTRY returns the named copy as it stands, or NOT_FOUND, and changes nothing; the bytes of a
configuration record and of a runtime record. -/
def Obligations.ReadEntryReturnsTheCopy : Prop :=
  (∀ c : LoadConfig, c.record = [byte c.homeChannel]
    ++ (match c.target with
      | .module node output => [byte node, byte output]
      | .direct d => [0, byte (d.val + 1)])
    ++ [byte c.tier] ++ word16 c.draw
    ++ [byte ((match c.method with
        | .cut => 0 | .wind _ .cut => 1 | .wind _ .keep => 3)
      + (if c.hold then 4 else 0) + (if c.restoreAuto then 8 else 0) + (if c.dimmable then 16 else 0)
      + match c.authority with
        | .governed => 0 | .pass => 32 | .forcedOff => 64)]
    ++ word16 (match c.method with | .cut => 0 | .wind grace _ => grace)
    ++ word16 c.minOn ++ word16 c.minOff) ∧
  (∀ (r : Runtime) (held : Bool) (index : Option Nat),
    let left (t : Option Nat) (unit : Nat) : List Byte :=
      word16 (match t with | none => 65535 | some ms => (ms + (unit - 1)) / unit)
    r.record held index = [match r.state with
        | .unknown => 1 | .absent => 2 | .off => 3 | .lockout => 4
        | .on => 5 | .winding => 6 | .shed => 7 | .restoring => 8,
      byte (r.level.getD 0), byte (r.prior.getD 0),
      match r.owed with
        | none => 0 | some .off => 1 | some .wind => 2 | some (.on _ _) => 3 | some .query => 4]
      ++ left r.minOn 1000 ++ left r.lockout 1000 ++ left r.grace 1000 ++ left r.answer 100
      ++ [byte ((if r.overdue then 1 else 0) + (if r.userOff then 2 else 0) + (if held then 4 else 0)
          + if r.withdrawn then 8 else 0),
        byte (index.getD 255)]) ∧
  ∀ (s : State) (src load : Byte) (n : LoadNo), s.Takes src 3 → load.toNat = n.val →
    let h := s.heard .panel src
    (∀ l, s.live? n = some l →
      exec (.readEntry src load 1) s = .next (h.withReply src ([1, 0] ++ l.config.record)) ∧
      exec (.readEntry src load 3) s = .next (h.withReply src ([1, 0] ++
        l.run.record (s.isHeld n) (s.ladder.stack.findIdx? (·.load == n))))) ∧
    (s.live? n = none →
      exec (.readEntry src load 1) s = .next (h.withReply src [1, 3]) ∧
      exec (.readEntry src load 3) s = .next (h.withReply src [1, 3])) ∧
    (∀ c, s.loads.slots[n].draft = some c →
      exec (.readEntry src load 2) s = .next (h.withReply src ([1, 0] ++ c.record))) ∧
    (s.loads.slots[n].draft = none →
      exec (.readEntry src load 2) s = .next (h.withReply src [1, 3]))

/-- READ MAP returns up to 8 entries from the start channel, each a load number with bit 6 set when it is live, or
255; READ SETTING returns the setting's code and value. They change nothing. (That the manager list comes back in
the order written: log entry 17.) -/
def Obligations.MapAndSettingsAreRead : Prop :=
  ∀ (s : State) (src : Byte), s.Takes src 2 →
    let h := s.heard .panel src
    let st := s.mgmt.settings
    (∀ start : Byte, start.toNat ≤ 127 →
      exec (.readMap src start) s = .next (h.withReply src ([7, 0] ++
        ((s.loads.map.toList.drop start.toNat).take 8).map fun e =>
          match e with
          | none => 255
          | some n => byte (n.val + if (s.live? n).isSome then 64 else 0)))) ∧
    (∀ start : Byte, 127 < start.toNat → exec (.readMap src start) s = .next (h.withReply src [7, 2])) ∧
    exec (.readSetting src 1) s = .next (h.withReply src [14, 0, 1, byte st.nodeAddress]) ∧
    exec (.readSetting src 2) s = .next (h.withReply src [14, 0, 2, byte st.monitorNode]) ∧
    exec (.readSetting src 3) s = .next (h.withReply src ([14, 0, 3] ++ st.managers.map byte)) ∧
    exec (.readSetting src 4) s = .next (h.withReply src [14, 0, 4, byte st.answerTimeout]) ∧
    exec (.readSetting src 5) s = .next (h.withReply src [14, 0, 5, byte st.staleTimeout]) ∧
    exec (.readSetting src 6) s = .next (h.withReply src [14, 0, 6, byte st.holdLifetime]) ∧
    exec (.readSetting src 7) s = .next (h.withReply src ([14, 0, 7] ++ word16 st.preWarning)) ∧
    exec (.readSetting src 8) s = .next (h.withReply src [14, 0, 8, byte st.startMode.code])

/-- READ STATUS returns one snapshot of the part and READ RESET CAUSE the reset cause record; they change
nothing. -/
def Obligations.StatusAndResetCauseAreReturned : Prop :=
  ∀ (s : State) (src : Byte), s.Takes src 1 →
    let h := s.heard .panel src
    exec (.readStatus src) s = .next (h.withReply src ([15, 0,
        byte (s.control.mode.code + 4 * phaseCode s.control.phase
          + 16 * if s.control.census.isSome then 1 else 0),
        byte s.ladder.active.val] ++ word16 s.word.toNat
      ++ [byte (s.draw / 65536), byte (s.draw / 256 % 256), byte (s.draw % 256)]
      ++ word16 (match s.meter.current with | some c => (-c).toNat | none => 65535)
      ++ [byte s.ladder.stack.length, byte s.hold.length] ++ word16 (h.summary (·.pending)))) ∧
    exec (.readResetCause src) s = .next (h.withReply src
      [16, 0, (match s.control.lastReset with
        | .powerOn => 1 | .brownOut => 2 | .resetLine => 3 | .warmRestart => 4),
        if s.control.storeValid then 1 else 0])

/-! ### Settings, the dump cursor and SAVE -/

/-- WRITE SETTING replaces the setting it names, each of the eight; a new node address is the source of
its own reply. (That the manager list is kept in the order written: log entry 17.) -/
def Obligations.WriteSettingReplacesTheSetting : Prop :=
  ∀ (s : State) (src : Byte), s.mgmt.save = none →
    let h := s.heard .panel src
    let st := s.mgmt.settings
    let put (st : Settings) : Host.Outcome State Fault Refusal :=
      .next (({ h with mgmt := { s.mgmt with settings := st } } : State).withReply src [13, 0])
    (∀ v : Byte, s.TakesWrite src 3 →
      (1 ≤ v.toNat → v.toNat ≤ 62 →
        exec (.writeSetting src 1 [v]) s = put { st with nodeAddress := v.toNat } ∧
        exec (.writeSetting src 2 [v]) s = put { st with monitorNode := v.toNat }) ∧
      (2 ≤ v.toNat → v.toNat ≤ 50 →
        exec (.writeSetting src 4 [v]) s = put { st with answerTimeout := v.toNat }) ∧
      (1 ≤ v.toNat → v.toNat ≤ 60 →
        exec (.writeSetting src 5 [v]) s = put { st with staleTimeout := v.toNat }) ∧
      (v.toNat ≤ 240 → exec (.writeSetting src 6 [v]) s = put { st with holdLifetime := v.toNat }) ∧
      exec (.writeSetting src 8 [1]) s = put { st with startMode := .governing } ∧
      exec (.writeSetting src 8 [2]) s = put { st with startMode := .bypass } ∧
      exec (.writeSetting src 8 [3]) s = put { st with startMode := .storage }) ∧
    (∀ a b c d : Byte, s.TakesWrite src 6 → (∀ x ∈ [a, b, c, d], x.toNat ≤ 62) →
      ([a, b, c, d].filter (· ≠ 0)).Nodup →
      exec (.writeSetting src 3 [a, b, c, d]) s =
        put { st with managers := [a.toNat, b.toNat, c.toNat, d.toNat] }) ∧
    ∀ hi lo : Byte, s.TakesWrite src 4 → 60 ≤ hi.toNat * 256 + lo.toNat → hi.toNat * 256 + lo.toNat ≤ 300 →
      exec (.writeSetting src 7 [hi, lo]) s = put { st with preWarning := hi.toNat * 256 + lo.toNat }

/-- DUMP OPEN opens the cursor for its sender, whoever held it, and is BAD_ARG outside the index ranges;
DUMP NEXT and DUMP CLOSE are NOT_FOUND on a closed cursor and DENIED to another node, and the owner's
CLOSE closes it. The manager list is not consulted. -/
def Obligations.DumpCursorIsOpenedAndClosed : Prop :=
  ∀ (s : State) (src : Byte),
    let h := s.heard .panel src
    let put (c : Option Cursor) : State := { h with mgmt := { s.mgmt with cursor := c } }
    (∀ start : Byte, s.Takes src 3 →
      (start.toNat ≤ 47 → exec (.dumpOpen src 1 start) s = .next
        ((put (some ⟨src.toNat, .stack, start.toNat⟩)).withReply src [17, 0, byte s.ladder.stack.length])) ∧
      (start.toNat ≤ 15 → exec (.dumpOpen src 2 start) s = .next
        ((put (some ⟨src.toNat, .queue, start.toNat⟩)).withReply src [17, 0, byte s.hold.length])) ∧
      (start.toNat ≤ 47 → exec (.dumpOpen src 3 start) s = .next
        ((put (some ⟨src.toNat, .loads, start.toNat⟩)).withReply src [17, 0, 48])) ∧
      (1 ≤ start.toNat → start.toNat ≤ 62 → exec (.dumpOpen src 4 start) s = .next
        ((put (some ⟨src.toNat, .nodes, start.toNat⟩)).withReply src [17, 0, 62])) ∧
      ∀ collection : Byte,
        (collection = 0 ∨ 4 < collection.toNat ∨ (collection = 1 ∧ 47 < start.toNat) ∨
          (collection = 2 ∧ 15 < start.toNat) ∨ (collection = 3 ∧ 47 < start.toNat) ∨
          (collection = 4 ∧ (start = 0 ∨ 62 < start.toNat))) →
        exec (.dumpOpen src collection start) s = .next (h.withReply src [17, 2])) ∧
    (s.Takes src 1 →
      (s.mgmt.cursor = none →
        exec (.dumpNext src) s = .next (h.withReply src [18, 3]) ∧
        exec (.dumpClose src) s = .next (h.withReply src [19, 3])) ∧
      ∀ c, s.mgmt.cursor = some c →
        (c.owner ≠ src.toNat →
          exec (.dumpNext src) s = .next (h.withReply src [18, 1]) ∧
          exec (.dumpClose src) s = .next (h.withReply src [19, 1])) ∧
        (c.owner = src.toNat →
          exec (.dumpClose src) s = .next ((put none).withReply src [19, 0]) ∧
          ∃ data, exec (.dumpNext src) s = .next ((put (some { c with
            next := c.next + min c.collection.perReply (s.endIndex c.collection - c.next) })).withReply src
              ([18, 0] ++ data))))

/-- DUMP NEXT from the owner returns the records that stand from the next index on, as many as one REPLY
carries, marks the end, and advances the cursor by that number; the bytes of each collection's record. -/
def Obligations.DumpNextReturnsTheRecords : Prop :=
  (∀ (s : State) (i : Nat),
    (∀ e, s.ladder.stack[i]? = some e → s.dumpRecord .stack i = [byte e.load.val,
      byte (match e.cause with | .stage k => k | .budget => 8 | .storage => 9 | .lastGasp => 10),
      byte (e.prior.getD 0)]) ∧
    (∀ e, s.hold[i]? = some e → s.dumpRecord .queue i = [byte e.load.val, byte e.requester, byte e.channel,
      match e.wish with | .on => 1 | .level _ => 2,
      byte (match e.wish with | .on => 0 | .level k => k),
      byte (match e.lifetime with | none => 0 | some ms => (ms + 59999) / 60000)]) ∧
    (∀ n : LoadNo, n.val = i → s.dumpRecord .loads i = [byte i,
      byte ((if s.loads.slots[n].draft.isSome then 1 else 0) + (if (s.live? n).isSome then 2 else 0)
        + (if s.isHeld n then 64 else 0) + if s.stacked n then 128 else 0),
      match s.state? n with
        | none => 0 | some .unknown => 1 | some .absent => 2 | some .off => 3 | some .lockout => 4
        | some .on => 5 | some .winding => 6 | some .shed => 7 | some .restoring => 8]) ∧
    s.dumpRecord .nodes i = [byte i, match s.side i with | .unseen => 0 | .panel => 1 | .load => 2]) ∧
  ∀ (s : State) (src : Byte) (c : Cursor), s.Takes src 1 → s.mgmt.cursor = some c → c.owner = src.toNat →
    let h := s.heard .panel src
    let beyond := match c.collection with
      | .stack => s.ladder.stack.length
      | .queue => s.hold.length
      | .loads => 48
      | .nodes => 63
    let count := min (if c.collection = .queue then 2 else 4) (beyond - c.next)
    exec (.dumpNext src) s = .next
      (({ h with mgmt := { s.mgmt with cursor := some { c with next := c.next + count } } } : State).withReply src
        ([18, 0, byte (count + if beyond ≤ c.next + count then 128 else 0)]
          ++ (List.range count).flatMap fun k => h.dumpRecord c.collection (c.next + k)))

/-- SAVE before LOAD has ended is NOT_READY; an accepted SAVE marks the store invalid and takes the
content as it stands, with no reply yet. A save that ends leaves the store valid with the content taken, or
invalid, and answers the saving node; with a full reply list the answer is lost and the store is the same. -/
def Obligations.SaveTakesAndStoresTheContent : Prop :=
  (∀ (s : State) (op : SaveOp) (copyMatches : Bool), s.mgmt.save = some op →
    let t : State := { s with mgmt := { s.mgmt with
      save := none, store := if copyMatches then some op.content else none } }
    (s.ports.replies.length < 8 → exec (.saveComplete copyMatches) s =
      .next (t.withReply (byte op.node) [22, if copyMatches then 0 else 12])) ∧
    (8 ≤ s.ports.replies.length → exec (.saveComplete copyMatches) s = .next (t.raise .relayOverflow))) ∧
  ∀ (s : State) (src : Byte), s.TakesWrite src 1 →
    let h := s.heard .panel src
    (s.control.phase = some .settle ∨ s.control.phase = some .load →
      exec (.save src) s = .next (h.withReply src [22, 9])) ∧
    (s.control.phase ≠ some .settle → s.control.phase ≠ some .load → s.mgmt.save = none →
      exec (.save src) s = .next { h with mgmt := { s.mgmt with
        store := none
        save := some { node := src.toNat, content := {
          configs := s.loads.slots.map fun slot => slot.live.map (·.config)
          map := s.loads.map
          ladder := s.ladder.live
          watches := s.watches.map (·.defn)
          settings := s.mgmt.settings } } } })

/-! ### Attention -/

/-- An occurrence sets the pending flag of its cause and no other flag, and builds a NOTICE exactly when
it takes the announceable set from empty to non-empty; a NOTICE that finds the reply list full is lost, and
RELAY_OVERFLOW builds none of its own. (That each occurrence builds its NOTICE at once, with that cause alone in
its body: log entry 43.) -/
def Obligations.OccurrenceSetsPendingAndAnnounces : Prop :=
  ∀ (s : State) (c : Cause),
    let marked : State :=
      { s with attention := s.attention.set c.index { s.attention[c.index] with pending := true } }
    let emptySet : Prop :=
      ∀ i : Fin 15, (s.attention[i].pending && s.attention[i].enabled && !s.attention[i].inService) = false
    (emptySet → s.attention[c.index].enabled = true → s.attention[c.index].inService = false →
      8 ≤ s.ports.replies.length → s.raise c = { marked with
        attention := marked.attention.set Cause.relayOverflow.index
          { marked.attention[Cause.relayOverflow.index] with pending := true } }) ∧
    (emptySet → s.attention[c.index].enabled = true → s.attention[c.index].inService = false →
      s.ports.replies.length < 8 → s.raise c = { marked with ports := { s.ports with replies := s.ports.replies ++
        [{ kind := .notice, src := s.own, dst := 0, body := word16 (2 ^ c.index.val) }] } }) ∧
    ((∃ i : Fin 15, s.attention[i].pending = true ∧ s.attention[i].enabled = true ∧
        s.attention[i].inService = false) → s.raise c = marked) ∧
    (s.attention[c.index].enabled = false ∨ s.attention[c.index].inService = true → s.raise c = marked)

/-- ATTENTION QUERY names the highest-priority announceable cause with the number that remain, and marks
it in service; with an empty set it answers NONE and changes nothing. -/
def Obligations.AttentionQueryMarksTheFirstCause : Prop :=
  ∀ (s : State) (src : Byte), s.Takes src 1 →
    let h := s.heard .panel src
    let open? (i : Fin 15) : Bool :=
      h.attention[i].pending && h.attention[i].enabled && !h.attention[i].inService
    ((∀ i, open? i = false) → exec (.attentionQuery src) s = .next (h.withReply src [24, 0, 0, 0])) ∧
    (∀ i, open? i = true → (∀ j, j < i → open? j = false) →
      exec (.attentionQuery src) s = .next
        (({ h with attention := h.attention.set i { h.attention[i] with inService := true } } : State).withReply
          src [24, 0, byte (i.val + 1), byte ((List.finRange 15).countP fun j => i < j && open? j)]))

/-- ATTENTION CONTROL acts on the one cause it names and answers OK; ENABLE and RELEASE build a NOTICE
before the REPLY when they put the cause into an announceable set that was empty, and CLEAR and DISABLE
never do. A cause outside 1 to 15 and an action outside 1 to 4 are BAD_ARG. -/
def Obligations.AttentionControlActsOnOneCause : Prop :=
  ∀ (s : State) (src cause : Byte) (i : Fin 15), s.TakesWrite src 3 → cause.toNat = i.val + 1 →
    let h := s.heard .panel src
    let f := h.attention[i]
    let put (g : CauseFlags) : Host.Outcome State Fault Refusal :=
      .next (({ h with attention := h.attention.set i g } : State).withReply src [25, 0])
    let announced (g : CauseFlags) : Host.Outcome State Fault Refusal :=
      .next (({ h with
        attention := h.attention.set i g
        ports := { h.ports with replies := h.ports.replies ++
          [{ kind := .notice, src := h.own, dst := 0, body := word16 (2 ^ i.val) }] } } : State).withReply
        src [25, 0])
    let emptySet : Prop :=
      ∀ j : Fin 15, (h.attention[j].pending && h.attention[j].enabled && !h.attention[j].inService) = false
    exec (.attentionClear src cause) s = put { f with pending := false, inService := false } ∧
    exec (.attentionDisable src cause) s = put { f with enabled := false } ∧
    (f.pending = false ∨ f.inService = true ∨ ¬ emptySet →
      exec (.attentionEnable src cause) s = put { f with enabled := true }) ∧
    (f.pending = true → f.inService = false → emptySet → h.ports.replies.length < 7 →
      exec (.attentionEnable src cause) s = announced { f with enabled := true }) ∧
    (f.pending = false ∨ f.enabled = false ∨ ¬ emptySet →
      exec (.attentionRelease src cause) s = put { f with inService := false }) ∧
    (f.pending = true → f.enabled = true → emptySet → h.ports.replies.length < 7 →
      exec (.attentionRelease src cause) s = announced { f with inService := false }) ∧
    (∀ other : Byte, other = 0 ∨ 15 < other.toNat →
      let refused (c : Instr) : Prop := exec c s = .next (h.withReply src [25, 2])
      refused (.attentionClear src other) ∧ refused (.attentionEnable src other) ∧
        refused (.attentionDisable src other) ∧ refused (.attentionRelease src other)) ∧
    ∀ action : Byte, action = 0 ∨ 4 < action.toNat →
      manageCommand src [25, cause, action] = .manageUnknownRequest src [25, cause, action] ∧
      exec (.manageUnknownRequest src [25, cause, action]) s = .next (h.withReply src [25, 2])

/-! ### Load Table, Channel Map, ladder and watches -/

/-- WRITE DRAFT puts a checked record in the slot whole; DISCARD DRAFT removes a draft, or is NOT_FOUND;
neither touches the live copy, and both are taken while a save is in flight. -/
def Obligations.DraftsAreWrittenAndDiscarded : Prop :=
  ∀ (s : State) (src load : Byte) (n : LoadNo), load.toNat = n.val →
    let h := s.heard .panel src
    let put (d : Option LoadConfig) : State := h.setSlot n { s.loads.slots[n] with draft := d }
    (∀ c : LoadConfig, s.TakesWrite src 15 → c.valid = true →
      (∀ out, c.target ≠ .module s.mgmt.settings.nodeAddress out) →
      exec (.writeDraft src load c.record) s = .next ((put (some c)).withReply src [2, 0])) ∧
    (s.TakesWrite src 2 →
      (s.loads.slots[n].draft = none → exec (.discardDraft src load) s = .next (h.withReply src [3, 3])) ∧
      (s.loads.slots[n].draft ≠ none →
        exec (.discardDraft src load) s = .next ((put none).withReply src [3, 0])))

/-- PUBLISH makes its checks in order and answers the first that fails, changing nothing; otherwise the
draft becomes the live copy and the slot holds no draft. -/
def Obligations.PublishChecksInOrder : Prop :=
  ∀ (s : State) (src load : Byte) (n : LoadNo), s.TakesWrite src 2 → load.toNat = n.val →
    let h := s.heard .panel src
    let answers (status : Byte) : Prop := exec (.publish src load) s = .next (h.withReply src [4, status])
    (s.mgmt.save ≠ none → answers 4) ∧
    (s.mgmt.save = none → s.loads.slots[n].draft = none → answers 3) ∧
    ∀ c, s.mgmt.save = none → s.loads.slots[n].draft = some c →
      let taken : Prop := ∃ m l, m ≠ n ∧ s.live? m = some l ∧ l.config.target = c.target
      let busy : Prop := s.state? n = some .winding ∨ s.state? n = some .restoring
      let active : Prop := ∃ l, s.live? n = some l ∧ l.config.target ≠ c.target ∧
        l.run.state ≠ .off ∧ l.run.state ≠ .unknown ∧ l.run.state ≠ .absent
      (taken → answers 2) ∧
      (¬ taken → busy → answers 5) ∧
      (¬ taken → ¬ busy → active → answers 6) ∧
      (¬ taken → ¬ busy → ¬ active → ∃ t, exec (.publish src load) s = .next t ∧
        (t.live? n).map (·.config) = some c ∧ t.loads.slots[n].draft = none)

/-- PUBLISH into a DRAFT-ONLY slot makes a new record: UNKNOWN with QUERY owed for a module target, OFF with the
output driven off, and reported, for a direct one; during the start-up census a new module load joins the set, and
the census of a warm restart goes on as it was. (The report at a binding is log entry 13; a first publish as
FORCED_OFF is like any other, log entry 23; the census: log entry 16; its end before the REPLY: log entry 22.) -/
def Obligations.PublishOfANewLoad : Prop :=
  ∀ (s : State) (src load : Byte) (n : LoadNo) (c : LoadConfig), s.TakesWrite src 2 → load.toNat = n.val →
    s.mgmt.save = none → s.live? n = none → s.loads.slots[n].draft = some c →
    (∀ m l, s.live? m = some l → l.config.target ≠ c.target) →
    let h := s.heard .panel src
    let made (r : Runtime) : State := h.setSlot n { live := some { config := c, run := r }, draft := none }
    let noStartUp : Prop := ∀ set, s.control.census = some set → s.control.mode ≠ .starting ∧ set ≠ []
    (∀ node out, c.target = .module node out →
      let asked := made { state := .unknown, owed := some .query }
      (noStartUp → exec (.publish src load) s = .next (asked.withReply src [4, 0])) ∧
      (∀ set, s.control.census = some set → s.control.mode = .starting →
        exec (.publish src load) s = .next (({ asked with control := { h.control with
          census := some (if n ∈ set then set else set ++ [n]) } } : State).withReply src [4, 0]))) ∧
    (∀ d, c.target = .direct d → h.ports.replies.length < 8 →
      let off := made { state := .off }
      let silent : State := { off with loads := { off.loads with outputs := off.loads.outputs.set d false } }
      let bound : State := { silent with ports := { silent.ports with
        replies := silent.ports.replies ++ [{
          kind := .state, src := h.own, dst := 0
          body := [byte c.homeChannel, 2, 0, 3, if s.isHeld n then 1 else 0] }] } }
      exec (.publish src load) s = .next ((bound.heardInCensus n).joinReply
        { kind := .reply, src := s.own, dst := src, body := [4, 0] }))

/-- PUBLISH of a load that is already live, in every state of the stack, the sequencer and the queue. The draft
replaces the configuration, and then R18, R15, R16, the shed of R19 and R17 act one after the other: a retarget gives
the load the state of its new target, and one to a direct output takes it out of a census and, from UNKNOWN with a
nominal draw, is a committed-draw decrease; running timers are cut to the new lengths and ended at 0 s, a lockout
that ends making a LOCKOUT load OFF and being a scan event for a stacked load and a replay event for one with a
request held; the level follows the dimmable field; a lower nominal draw of a counted load is a decrease; a SHED load
leaves the stack when its restore option becomes NONE, its tier 0 or its authority PASS; an ON load that is cuttable
is shed; a load that becomes FORCED_OFF is commanded off; a direct load reports each change; ENFORCED is raised once
for a shed or a load forced off. Then the load that stands in the stack is a scan event, the one with a request held
a replay event, a census that waits for no load ends, and the REPLY is OK. The clauses after these give the whole
result where no event comes in between, or one. (The level of a SHED load: log entry 10; the reports of a direct
load and of a binding: log entry 13; the place of ENFORCED: log entry 21; the end of the census before the REPLY: log
entry 22; the configuration replaced as a whole first, and where its events come: log entry 23; the new authority
judges the shed: log entry 46; `choices` counts free orders: log entry 5; an owed ON carries the level recorded: log
entry 11; the set a new module target joins: log entry 16.) -/
def Obligations.PublishOfALiveLoad : Prop :=
  ∀ (s : State) (src load : Byte) (n : LoadNo) (l : Live) (c : LoadConfig), s.TakesWrite src 2 →
    load.toNat = n.val → s.mgmt.save = none → s.live? n = some l → s.loads.slots[n].draft = some c →
    (∀ m k, m ≠ n → s.live? m = some k → k.config.target ≠ c.target) →
    l.run.state ≠ .winding → l.run.state ≠ .restoring →
    let h := s.heard .panel src
    let made (r : Runtime) : State := h.setSlot n { live := some { config := c, run := r }, draft := none }
    let handed (t r : State) : Prop :=
      let counted : State := { t with choices := t.choices + 1 }
      (t.stacked n = false → t.isHeld n = false → r = t) ∧
      (t.stacked n = true → t.isHeld n = false → r = t.scanEvent) ∧
      (t.stacked n = false → t.isHeld n = true → r = t.replayEvent) ∧
      (t.stacked n = true → t.isHeld n = true →
        r = counted.scanEvent.replayEvent ∨ r = counted.replayEvent.scanEvent)
    let gives (t : State) : Prop := ∃ r, handed t r ∧ exec (.publish src load) s =
      .next (r.censusEnds.joinReply { kind := .reply, src := s.own, dst := src, body := [4, 0] })
    let cut (t : Option Nat) (seconds : Nat) : Option Nat :=
      if seconds = 0 then none else t.map (min (seconds * 1000))
    let bounded (q : Runtime) : Runtime := { q with
      minOn := cut q.minOn c.minOn, lockout := cut q.lockout c.minOff
      state := if q.state = .lockout ∧ cut q.lockout c.minOff = none then .off else q.state }
    let leaves (q : Runtime) : Runtime := { q with
      state := if q.lockout = none then .off else .lockout
      grace := none, level := none, prior := none, overdue := false, userOff := false }
    let out (t : State) : State :=
      { t with ladder := { t.ladder with stack := t.ladder.stack.filter (·.load != n) } }
    let entries (prior : Option Nat) (t : State) : State := { t with ladder := { t.ladder with
      stack := t.ladder.stack.map fun e => if e.load = n then { e with prior := prior } else e } }
    let joined (t : State) : State := { t with control := { t.control with
      census := if t.control.mode = .starting then
        t.control.census.map fun asked => if n ∈ asked then asked else asked ++ [n]
      else t.control.census } }
    let freed (t : State) : State := match l.config.target with
      | .direct d => { t with loads := { t.loads with outputs := t.loads.outputs.set d false } }
      | .module _ _ => t
    let bound (t : State) (d : Fin 4) (overdue : Bool) : State :=
      let off : State := { t with
        loads := { t.loads with outputs := t.loads.outputs.set d false }
        control := { t.control with census := t.control.census.map fun asked => asked.filter (· != n) } }
      off.joinReply { kind := .state, src := s.own, dst := 0, body := [byte c.homeChannel, 2, 0, 3,
        (if t.isHeld n then 1 else 0) + if overdue then 2 else 0] }
    let causeIn (t : State) : ShedCause :=
      if t.cutTier ≤ c.tier then .stage t.ladder.active.val else .storage
    let down : Prop := l.run.state = .off ∨ l.run.state = .unknown ∨ l.run.state = .absent
    let forced : Prop := l.config.authority ≠ .forcedOff ∧ c.authority = .forcedOff
    let stays : Prop := c.authority = l.config.authority
    let sameLevels : Prop := c.dimmable = l.config.dimmable
    let sameTarget : Prop := l.config.target = c.target
    let owesNoOn : Prop := ∀ lv since, l.run.owed ≠ some (.on lv since)
    let r := bounded l.run
    let left := leaves r
    let calm (counts : Prop) : Prop := s.Settled ∨
      ((l.run.lockout = none ∨ c.minOff ≠ 0 ∨ s.stacked n = false ∧ s.isHeld n = false) ∧
        (counts → l.config.draw ≤ c.draw))
    (sameTarget ∨ down →
      let fielded := (((made l.run).retarget n l.config c).rebindRecord n l.config c).fieldChanges n l.config c
      let acted := (fielded.publishShed n c).authorityChange n l.config c
      gives (if fielded.cuttableOn n = true ∨ forced then acted.raise .enforced else acted)) ∧
    (∀ (u : State) (k : Live), u.live? n = some k → k.config = c → u.own = s.own →
      let reported (t : State) (q : Runtime) : State := match c.target with
        | .module _ _ => t
        | .direct d =>
          if q.state ≠ k.run.state ∨ q.level ≠ k.run.level then
            let on := t.loads.outputs[d]
            t.joinReply { kind := .state, src := s.own, dst := 0, body := [byte c.homeChannel,
              if on then 1 else 2, if on ∧ q.state = .on then byte (q.level.getD 0) else 0, byte q.state.code,
              (if t.isHeld n then 1 else 0) + if q.overdue then 2 else 0] }
          else t
      (sameTarget → u.retarget n l.config c = u) ∧
      (¬ sameTarget →
        (∀ node output, c.target = .module node output → u.retarget n l.config c = joined ((freed u).withRun n k
          { k.run with state := .unknown, owed := some .query, answer := none })) ∧
        (∀ d, c.target = .direct d →
          let t := bound ((freed u).withRun n k { k.run with state := .off, owed := none, answer := none }) d
            k.run.overdue
          u.retarget n l.config c = if k.run.state = .unknown ∧ l.config.draw ≠ 0 then t.drawFell else t)) ∧
      (let b := bounded k.run
       let carrying (lv : Option Nat) : Option Owed := match k.run.owed with
         | some (.on _ since) => some (.on lv since)
         | other => other
       let levelled : Runtime :=
         if l.config.dimmable = true ∧ c.dimmable = false then
           { b with level := none, prior := none, owed := carrying none }
         else if l.config.dimmable = false ∧ c.dimmable = true then
           if b.state = .on then { b with level := some 100, owed := carrying (some 100) }
           else if b.state = .shed ∨ b.state = .winding then { b with level := some 100, prior := some 100 }
           else b
         else b
       let prior (t : State) : State :=
         if l.config.dimmable = true ∧ c.dimmable = false then entries none t
         else if l.config.dimmable = false ∧ c.dimmable = true then entries (some 100) t
         else t
       let t := reported (prior (u.withRun n k levelled)) levelled
       (k.run.lockout = none ∨ c.minOff ≠ 0 → u.rebindRecord n l.config c = t) ∧
       (k.run.lockout ≠ none → c.minOff = 0 → handed t (u.rebindRecord n l.config c))) ∧
      u.fieldChanges n l.config c = ((u.changeDraw n l.config c).changeRestore n l.config c).changeTier n c ∧
      u.changeDraw n l.config c = (if c.draw < l.config.draw ∧ (k.run.state = .on ∨ k.run.state = .restoring ∨
        k.run.state = .winding ∨ k.run.state = .unknown) then u.drawFell else u) ∧
      u.changeRestore n l.config c =
        (if l.config.restoreAuto = true ∧ c.restoreAuto = false then u.publishUnstacks n else u) ∧
      u.changeTier n c = (if c.tier = 0 then u.publishUnstacks n else u) ∧
      u.publishUnstacks n = (if u.stacked n = true then
        reported (out (u.withRun n k (leaves k.run))) (leaves k.run) else u) ∧
      (u.cuttable c = true ↔ c.authority = .governed ∧ 1 ≤ c.tier ∧ u.control.mode ≠ .bypass ∧
        (u.cutTier ≤ c.tier ∨ u.control.mode = .storage)) ∧
      (u.cuttableOn n = true ↔ k.run.state = .on ∧ u.cuttable c = true) ∧
      u.publishShed n c = (if u.cuttableOn n = true then u.shed (causeIn u) n else u) ∧
      (forced →
        let moved := if k.run.state = .on then k.run.nowOff c
          else if k.run.state = .shed ∨ k.run.state = .winding then leaves k.run else k.run
        let unstacked (t : State) : State := if k.run.state = .shed ∨ k.run.state = .winding then out t else t
        let commanded : State := match c.target with
          | .module _ _ => u.withRun n k { moved with owed := some .off }
          | .direct d =>
            let t := u.withRun n k moved
            { t with loads := { t.loads with outputs := t.loads.outputs.set d false } }
        let t := reported (unstacked commanded) moved
        u.authorityChange n l.config c =
          if c.draw ≠ 0 ∧ (k.run.state = .on ∨ k.run.state = .winding) then t.drawFell else t) ∧
      (¬ forced → u.authorityChange n l.config c =
        if l.config.authority = .governed ∧ c.authority = .pass then u.publishUnstacks n else u)) ∧
    (∀ node output, c.target = .module node output → sameTarget → calm (l.run.state = .on ∨ l.run.state = .unknown) →
      (stays → sameLevels → (l.run.state = .on → s.cuttable c = false) →
        (s.stacked n = true → c.restoreAuto = true ∧ 1 ≤ c.tier) → gives (made r)) ∧
      (stays → l.run.state = .on → s.stacked n = false → s.cuttable c = false → owesNoOn →
        (l.config.dimmable = false → c.dimmable = true → gives (made { r with level := some 100 })) ∧
        (l.config.dimmable = true → c.dimmable = false →
          gives (made { r with level := none, prior := none }))) ∧
      (stays → l.run.state = .shed → c.restoreAuto = true → 1 ≤ c.tier → owesNoOn →
        (l.config.dimmable = false → c.dimmable = true →
          gives (entries (some 100) (made { r with level := some 100, prior := some 100 }))) ∧
        (l.config.dimmable = true → c.dimmable = false →
          gives (entries none (made { r with level := none, prior := none })))) ∧
      (sameLevels → l.run.state = .shed → s.stacked n = true →
        (stays → (l.config.restoreAuto = true ∧ c.restoreAuto = false) ∨ c.tier = 0 →
          gives (out (made left))) ∧
        (l.config.authority = .governed → c.authority = .pass → gives (out (made left)))) ∧
      (sameLevels → forced →
        (l.run.state = .on → s.stacked n = false →
          let t := made { r.nowOff c with owed := some .off }
          gives ((if c.draw = 0 then t else t.drawFell).raise .enforced)) ∧
        (down ∨ l.run.state = .lockout → s.stacked n = false →
          gives ((made { r with owed := some .off }).raise .enforced)) ∧
        (l.run.state = .shed → s.stacked n = true →
          gives ((out (made { left with owed := some .off })).raise .enforced))) ∧
      (sameLevels → s.cuttable c = true → l.run.state = .on → s.stacked n = false →
        gives (((made r).shed (causeIn s) n).raise .enforced))) ∧
    (∀ node output, c.target = .module node output → sameTarget → stays → sameLevels → 1 ≤ c.tier →
      (l.config.restoreAuto = true → c.restoreAuto = true) →
      let settles (t : State) : Prop :=
        gives (if t.cuttableOn n = true then (t.shed (causeIn t) n).raise .enforced else t)
      (l.run.lockout ≠ none → c.minOff = 0 → l.config.draw ≤ c.draw → ∃ t, handed (made r) t ∧ settles t) ∧
      (l.run.lockout = none → c.draw < l.config.draw → l.run.state = .on ∨ l.run.state = .unknown →
        settles (made r).drawFell)) ∧
    (∀ d, c.target = .direct d → sameTarget → stays → sameLevels → calm (l.run.state = .on ∨ l.run.state = .unknown) →
      (l.run.state = .on → s.cuttable c = false) → (s.stacked n = true → c.restoreAuto = true ∧ 1 ≤ c.tier) →
      (r.state = l.run.state → gives (made r)) ∧
      (r.state ≠ l.run.state → s.loads.outputs[d] = false → h.ports.replies.length < 8 →
        s.Settled ∨ s.stacked n = false ∧ s.isHeld n = false →
        gives ((made r).withReport [byte c.homeChannel, 2, 0, 3, if l.run.overdue then 2 else 0]))) ∧
    (¬ sameTarget → down → s.stacked n = false → sameLevels → stays →
      (∀ node output, c.target = .module node output → calm True →
        gives (joined (freed (made { r with state := .unknown, owed := some .query, answer := none })))) ∧
      ∀ d, c.target = .direct d → calm False → s.Settled ∨ l.run.state ≠ .unknown ∨ l.config.draw = 0 →
        gives (bound (freed (made { r with state := .off, owed := none, answer := none })) d l.run.overdue))

/-- RETIRE makes its checks in order; an accepted one takes the live copy and the record out of the slot,
keeps the draft and the map, answers a request held for the load WITHDRAWN(RETIRED), and takes the load out of a
census; that of an UNKNOWN load with a nominal draw is a committed-draw decrease. (That the census ends after the
request's other effects and before its REPLY: log entry 22.) -/
def Obligations.RetireRemovesTheLiveCopy : Prop :=
  ∀ (s : State) (src load : Byte) (n : LoadNo), s.TakesWrite src 2 → load.toNat = n.val →
    s.mgmt.save = none →
    let h := s.heard .panel src
    (s.live? n = none → exec (.retire src load) s = .next (h.withReply src [5, 3])) ∧
    ∀ l, s.live? n = some l →
      let down : Prop := l.run.state = .off ∨ l.run.state = .unknown ∨ l.run.state = .absent
      (¬ down → exec (.retire src load) s = .next (h.withReply src [5, 6])) ∧
      (down → l.run.owed = some .off → exec (.retire src load) s = .next (h.withReply src [5, 5])) ∧
      ∀ h' : State, (s.isHeld n = false ∧ h' = h ∨ ∃ q, s.heldFor n = some q ∧
          h' = (h.withoutHeld n).withReply (byte q.requester) [0, 5, byte q.channel, 14]) →
        down → l.run.owed ≠ some .off →
        let gone := h'.setSlot n { s.loads.slots[n] with live := none }
        let left : State := { gone with control := { gone.control with
          census := s.control.census.map fun asked => asked.filter (· != n) } }
        let told := if l.run.state = .unknown ∧ l.config.draw ≠ 0 then left.drawFell else left
        exec (.retire src load) s = .next ((told.heardInCensus n).joinReply
          { kind := .reply, src := s.own, dst := src, body := [5, 0] })

/-- MAP sets the entry of its channel at once, whether or not the load is live, and nothing else; outside
the ranges it is BAD_ARG, and during a save BUSY. -/
def Obligations.MapSetsTheEntry : Prop :=
  ∀ (s : State) (src channel load : Byte), s.TakesWrite src 3 →
    let h := s.heard .panel src
    let answers (status : Byte) : Prop := exec (.map src channel load) s = .next (h.withReply src [6, status])
    let put (e : Option LoadNo) : State :=
      { h with loads := { s.loads with map := s.loads.map.setIfInBounds channel.toNat e } }
    (127 < channel.toNat ∨ (47 < load.toNat ∧ load ≠ 255) → answers 2) ∧
    (channel.toNat ≤ 127 → load.toNat ≤ 47 ∨ load = 255 → s.mgmt.save ≠ none → answers 4) ∧
    (channel.toNat ≤ 127 → s.mgmt.save = none →
      (∀ n : LoadNo, load.toNat = n.val →
        exec (.map src channel load) s = .next ((put (some n)).withReply src [6, 0])) ∧
      (load = 255 → exec (.map src channel load) s = .next ((put none).withReply src [6, 0])))

/-- WRITE STAGE replaces one stage of the draft, made from the live ladder when none stands; READ STAGE
returns a stage of either copy. Neither touches the live ladder. -/
def Obligations.StagesAreDraftedAndRead : Prop :=
  ∀ (s : State) (src : Byte),
    let h := s.heard .panel src
    let base := s.ladder.draft.getD s.ladder.live
    let put (l : Ladder) : State := { h with ladder := { s.ladder with draft := some l } }
    (∀ record, s.TakesWrite src 15 →
      (∀ i st, stageOfRecord record = some (.upper i st) → record.length = 14 →
        exec (.writeStage src record) s =
          .next ((put { base with stages := base.stages.set i st }).withReply src [8, 0])) ∧
      (∀ ceiling stagger dwell, stageOfRecord record = some (.zero ceiling stagger dwell) →
        record.length = 14 →
        exec (.writeStage src record) s = .next ((put { base with
          ceiling0 := ceiling, stagger := stagger, overrunDwell := dwell }).withReply src [8, 0]))) ∧
    (∀ (stage : Byte) (i : Fin 8), s.Takes src 3 → stage.toNat = i.val →
      exec (.readStage src stage 1) s = .next (h.withReply src ([9, 0] ++ s.ladder.live.record i)) ∧
      (∀ d, s.ladder.draft = some d →
        exec (.readStage src stage 2) s = .next (h.withReply src ([9, 0] ++ d.record i))) ∧
      (s.ladder.draft = none → exec (.readStage src stage 2) s = .next (h.withReply src [9, 3])))

/-- PUBLISH LADDER makes its checks in order and a refusal changes nothing; an accepted one makes the draft
the live ladder whole, no draft stands afterwards, and the active stage is recomputed before the answer. -/
def Obligations.PublishLadderInstallsTheDraft : Prop :=
  ∀ (s : State) (src : Byte), s.TakesWrite src 1 →
    let h := s.heard .panel src
    let answers (status : Byte) : Prop := exec (.publishLadder src) s = .next (h.withReply src [10, status])
    let early : Prop := s.control.phase = some .settle ∨ s.control.phase = some .load
    let rises (d : Ladder) : Prop := ∃ i j : Fin 8, i < j ∧ d.enabled i = true ∧ d.enabled j = true ∧
      (d.cutTier i < d.cutTier j ∨ d.ceiling i < d.ceiling j)
    let blank (d : Ladder) : Prop := ∃ i : Fin 7, d.stages[i].enable = true ∧
      ((∀ k : Fin 12, d.stages[i].entry.terms[k] = .ignore) ∨ ∀ k : Fin 12, d.stages[i].exit.terms[k] = .ignore)
    (s.mgmt.save ≠ none → answers 4) ∧
    (s.mgmt.save = none → early → answers 9) ∧
    (s.mgmt.save = none → ¬ early → s.ladder.draft = none → answers 3) ∧
    ∀ d, s.mgmt.save = none → ¬ early → s.ladder.draft = some d →
      (rises d → answers 7) ∧
      (¬ rises d → blank d → answers 8) ∧
      (¬ rises d → ¬ blank d →
        let installed : State := { h with ladder := { s.ladder with live := d, draft := none } }
        exec (.publishLadder src) s = .next (installed.recompute.joinReply
          { kind := .reply, src := s.own, dst := src, body := [10, 0] }) ∧
        ∃ t, exec (.publishLadder src) s = .next t ∧ t.ladder.live = d ∧ t.ladder.draft = none)

/-- The stage that a recompute makes active: the highest enabled one whose entry holds on levels, and
stage 0 when none does. The recompute then sheds, in shed order, the loads that stage does not allow, raises
ENFORCED if it shed any, makes the overrun judgement with the timer cut to the overrun dwell, starts the exit dwell
if the exit pattern holds on levels, and hands over a stage change. WARM RESTART recomputes between its withdrawals
and its census, in which each module load that owes nothing owes QUERY. (The place of ENFORCED: log entry 21; that a
fall of OVER is taken last: log entry 20.) -/
def Obligations.RecomputeChoosesTheHighestStage : Prop :=
  (∀ s : State,
    let holds (i : Fin 8) : Prop :=
      s.ladder.live.enabled i = true ∧ (s.ladder.live.entry i).satisfied s.word .none = true
    (∀ i, holds i → i ≤ s.restage.ladder.active) ∧
    (s.restage.ladder.active = 0 ∨ holds s.restage.ladder.active) ∧
    s.restage.ladder.exitDwell = none ∧
    (s.restage.ladder.active = s.ladder.active → s.restage.attention = s.attention) ∧
    (s.restage.ladder.active ≠ s.ladder.active →
      s.restage.attention[Cause.stageChange.index].pending = true)) ∧
  (∀ s : State,
    let t := s.restage
    let loads := t.inShedOrder fun l => t.control.mode != .bypass && t.cutTier ≤ l.config.tier &&
      (l.config.authority == .governed && 1 ≤ l.config.tier && (l.run.state == .on || l.run.state == .restoring))
    let swept := loads.foldl (fun u n => u.shed (.stage t.ladder.active.val) n) t
    let judged := (if loads = [] then swept else swept.raise .enforced).judgeOverrun
    let bound : State := { judged with ladder := { judged.ladder with
      overrun := judged.ladder.overrun.map fun left => min left (judged.ladder.live.overrunDwell * 1000) } }
    let exit := bound.ladder.live.exit bound.ladder.active
    let dwelling : State := { bound with ladder := { bound.ladder with
      exitDwell := some (bound.ladder.exitDwell.getD (bound.ladder.live.exitDwell bound.ladder.active * 1000)) } }
    s.recompute =
      (if exit.onLevels bound.word = true then dwelling else bound).stageChanged.takeOverFall s) ∧
  (∀ (s : State) (src : Byte), s.TakesWrite src 1 → s.mgmt.save = none → s.control.mode ≠ .starting →
    s.control.census = none → s.heldLoads.Nodup →
    let h := s.heard .panel src
    h.ports.replies.length + s.hold.length < 8 →
    let withdrawn : List Frame := s.hold.map fun e =>
      { kind := .reply, src := s.own, dst := byte e.requester, body := [0, 5, byte e.channel, 17] }
    let aborted : List Frame := match s.sense.slot with
      | some q => [{ kind := .reply, src := s.own, dst := byte q.requester, body := [20, 11] }]
      | none => []
    let restarted : State := { h with
      control := { h.control with lastReset := .warmRestart }
      hold := []
      mgmt := { s.mgmt with cursor := none }
      sense := { h.sense with slot := none }
      ports := { h.ports with replies := h.ports.replies ++ withdrawn ++ aborted } }
    exec (.warmRestart src) s = .next (restarted.recompute.beginCensus.joinReply
      { kind := .reply, src := s.own, dst := src, body := [23, 0] })) ∧
  ∀ s : State, s.control.mode ≠ .starting →
    s.beginCensus.ladder = s.ladder ∧ s.beginCensus.ports = s.ports ∧ s.beginCensus.attention = s.attention ∧
    ∀ n l, s.live? n = some l →
      (∀ d, l.config.target = .direct d → s.beginCensus.live? n = some l) ∧
      ∀ node output, l.config.target = .module node output →
        s.beginCensus.live? n = some { l with run := { l.run with owed := some (l.run.owed.getD .query) } }

/-- WRITE WATCH acts at once: the definition is replaced, the dwell timer cancelled and the output recomputed from
the latest value, and its change is taken before the answer; READ WATCH returns the definition, the output and
whether its dwell runs. An enabled watch takes a sample by its comparison, threshold, hysteresis and dwell, and of a
METER frame the quantity of its source. -/
def Obligations.WatchIsWrittenAndRead : Prop :=
  (∀ (w : Watch) (v : Int),
    let d := w.defn
    let beyond : Prop := match d.comparison with
      | .below => v < d.threshold
      | .above => d.threshold < v
    let back : Prop := match d.comparison with
      | .below => d.threshold + d.hysteresis ≤ v
      | .above => v ≤ d.threshold - d.hysteresis
    let moves : Prop := if w.output = true then back else beyond
    (d.enable = false → w.sample v = w) ∧
    (d.enable = true →
      (¬ moves → w.sample v = { w with dwell := none }) ∧
      (moves → w.dwell ≠ none → w.sample v = w) ∧
      (moves → w.dwell = none → d.dwell = 0 → w.sample v = { w with output := !w.output }) ∧
      (moves → w.dwell = none → d.dwell ≠ 0 → w.sample v = { w with dwell := some (d.dwell * 100) }))) ∧
  (∀ (v : MeterValues) (w : Watch), w.takeMeter v = match w.defn.source with
    | .leisureV => w
    | .chassisV => w
    | .auxV => w
    | .netA => w.sample v.current
    | .dischargeA => w.sample (if v.current < 0 then -v.current else 0)
    | .soc => w.sample v.soc
    | .battTemp => match v.temperature with
      | some degrees => w.sample degrees
      | none => { w with dwell := none }) ∧
  ∀ (s : State) (src : Byte),
    let h := s.heard .panel src
    (∀ record w d, s.TakesWrite src 9 → s.mgmt.save = none → record.length = 8 →
      watchOfRecord record = some (w, d) →
      let output := match s.latest d.source with
        | none => false
        | some v => d.enable && (d.beyond v || (!d.back v && s.watches[w].output))
      let written : State := { h with watches := s.watches.set w { defn := d, output := output, dwell := none } }
      (∃ t, exec (.writeWatch src record) s = .next t ∧ t.watches = written.watches) ∧
      exec (.writeWatch src record) s = .next ((written.takeChange h).joinReply
        { kind := .reply, src := s.own, dst := src, body := [11, 0] }) ∧
      (output = s.watches[w].output → exec (.writeWatch src record) s = .next (written.withReply src [11, 0]))) ∧
    ∀ (watch : Byte) (w : WatchNo), s.Takes src 2 → watch.toNat = w.val + 1 →
      exec (.readWatch src watch) s = .next (h.withReply src ([12, 0] ++ s.watches[w].defn.record w ++
        [byte ((if s.watches[w].output then 1 else 0) + if s.watches[w].dwell.isSome then 2 else 0)]))

/-! ### Panel requests -/

/-- A request that no check stops switches a GOVERNED load on: out of BYPASS check 12, for an OFF load, or a
SHED one whose lockout has run out; in BYPASS, which judges neither stage nor budget, an OFF, LOCKOUT, UNKNOWN
or ABSENT load. The record, the load's place in the stack, and an owed ON or the driven output with its report;
no reply to the requester, and WITHDRAWN(REPLACED) for a request held for the load. (The stamp of the owed ON is
the model's own, log entry 27; the report of a direct load before the answer, log entry 13.) -/
def Obligations.RequestSwitchesTheLoadOn : Prop :=
  ∀ (s : State) (src dst channel : Byte) (c : Instr) (w : Wish) (n : LoadNo) (l : Live),
    Asks src dst channel c w → s.Hears src dst 3 → s.Reaches channel n l → l.config.authority = .governed →
    (s.control.mode ≠ .bypass ∧ (s.control.mode = .storage → l.config.tier = 0) ∧
        (l.run.state = .off ∨ l.run.state = .shed ∧ l.run.lockout = none) ∧
        l.config.tier < s.cutTier ∧ s.draw + l.config.draw ≤ s.ceiling ∨
      s.control.mode = .bypass ∧
        (l.run.state = .off ∨ l.run.state = .lockout ∨ l.run.state = .unknown ∨ l.run.state = .absent)) →
    let h := s.heard .panel src
    let level := w.given l.config
    let r := { l.run.nowOn l.config level with
      answer := if l.run.state = .unknown then none else l.run.answer }
    let out (t : State) : State :=
      { t with ladder := { t.ladder with stack := s.ladder.stack.filter (·.load != n) } }
    let replaced (t : State) (old : Held) : State :=
      (t.withoutHeld n).withReply (byte old.requester) [0, 5, byte old.channel, 10]
    (∀ node output, l.config.target = .module node output →
      let t := out (h.withRunOn n l r level)
      (s.isHeld n = false → exec c s = .next t) ∧
      (∀ old, s.heldFor n = some old → h.ports.replies.length < 8 → exec c s = .next (replaced t old))) ∧
    ∀ d, l.config.target = .direct d →
      let t := out (h.withRun n l r)
      let reported (flags : Byte) : State :=
        ({ t with loads := { t.loads with outputs := s.loads.outputs.set d true } } : State).withReport
          [byte l.config.homeChannel, 1, byte (level.getD 0), 5, flags]
      (s.isHeld n = false → h.ports.replies.length < 8 → exec c s = .next (reported 0)) ∧
      (∀ old, s.heldFor n = some old → h.ports.replies.length < 7 →
        exec c s = .next (replaced (reported 1) old))

/-- Requests that a check refuses: the REPLY REFUSED with the reason of the first check that applies, on
the channel used, and nothing else. An OFF, or a LEVEL 0, is refused in STARTING and on an unmapped channel alone,
where the channel's entry is empty or its load is not live. -/
def Obligations.RefusedRequestsAreAnswered : Prop :=
  (∀ (s : State) (src dst channel : Byte) (c : Instr),
    (c = .offRequest src dst channel ∨ c = .levelRequest src dst channel 0) →
    s.Hears src dst 3 → channel.toNat ≤ 127 → (s.heard .panel src).ports.replies.length < 8 →
    let refused (reason : Byte) : Prop :=
      exec c s = .next ((s.heard .panel src).withReply src [0, 1, channel, reason])
    (s.control.mode = .starting → refused 3) ∧
    (s.control.mode ≠ .starting →
      (∀ n, s.loads.map[channel.toNat]? = some (some n) → s.live? n = none) → refused 1)) ∧
  ∀ (s : State) (src dst channel : Byte) (c : Instr) (w : Wish),
    Asks src dst channel c w → s.Hears src dst 3 → channel.toNat ≤ 127 →
    (s.heard .panel src).ports.replies.length < 8 →
    let refused (reason : Byte) : Prop :=
      exec c s = .next ((s.heard .panel src).withReply src [0, 1, channel, reason])
    (s.control.mode = .starting → refused 3) ∧
    (s.control.mode ≠ .starting →
      (∀ n, s.loads.map[channel.toNat]? = some (some n) → s.live? n = none) → refused 1) ∧
    ∀ n l, s.Reaches channel n l →
      (l.config.authority = .forcedOff → refused 2) ∧
      (l.config.authority = .governed → s.control.mode ≠ .bypass →
        (l.run.state = .unknown → refused 3) ∧
        (l.run.state = .absent → refused 4) ∧
        (l.run.state = .winding → l.config.hold = false → refused 6) ∧
        (l.run.state = .off ∨ l.run.state = .lockout ∨ l.run.state = .shed →
          let locked : Prop := l.run.state = .lockout ∨ (l.run.state = .shed ∧ l.run.lockout ≠ none)
          let stored : Prop := s.control.mode = .storage ∧ 1 ≤ l.config.tier
          (stored → refused 5) ∧
          (¬ stored → s.cutTier ≤ l.config.tier → l.config.hold = false → refused 6) ∧
          (¬ stored → l.config.tier < s.cutTier → locked → l.config.hold = false → refused 7) ∧
          (¬ stored → l.config.tier < s.cutTier → ¬ locked → s.ceiling < s.draw + l.config.draw →
            l.config.hold = false → refused 8)))

/-- Requests that a load with the hold option holds: appended with its lifetime and answered HELD, put in
the place of the load's earlier request, or refused HOLD_FULL by a queue of 16. -/
def Obligations.HeldRequestsJoinTheQueue : Prop :=
  ∀ (s : State) (src dst channel : Byte) (c : Instr) (w : Wish) (n : LoadNo) (l : Live),
    Asks src dst channel c w → s.Hears src dst 3 → s.Reaches channel n l → s.control.mode = .governing →
    l.config.authority = .governed → l.config.hold = true →
    (l.run.state = .winding ∨
      ((l.run.state = .off ∨ l.run.state = .lockout ∨ l.run.state = .shed) ∧
        (s.cutTier ≤ l.config.tier ∨ l.run.state = .lockout ∨
          (l.run.state = .shed ∧ l.run.lockout ≠ none) ∨ s.ceiling < s.draw + l.config.draw))) →
    let h := s.heard .panel src
    let minutes := s.mgmt.settings.holdLifetime
    (s.isHeld n = false → s.hold.length < 16 → h.ports.replies.length < 8 →
      exec c s = .next (({ h with hold := s.hold ++ [{
        load := n, requester := src.toNat, channel := channel.toNat, wish := w
        lifetime := if minutes = 0 then none else some (minutes * 60000) }] } : State).withReply src
        [0, 2, channel, 0])) ∧
    (s.isHeld n = false → 16 ≤ s.hold.length → h.ports.replies.length < 8 →
      exec c s = .next ((h.withReply src [0, 1, channel, 9]).raise .holdFull)) ∧
    (∀ old, s.heldFor n = some old → h.ports.replies.length < 7 →
      exec c s = .next ((({ h with hold := s.hold.map fun e =>
        if e.load = n then { e with requester := src.toNat, channel := channel.toNat, wish := w } else e } :
        State).withReply (byte old.requester) [0, 5, byte old.channel, 10]).withReply src [0, 2, channel, 0]))

/-- Check 6 and check 2: a level for an ON load is recorded and owed, an ON already owed at that level left
as it is, and a direct load reports its new level; a LEVEL for a dimmable RESTORING load replaces the level
it is being restored to, and any other request for one is absorbed; a request for a PASS load is forwarded
untouched, to its module with a request held for it answered WITHDRAWN(REPLACED), or to its direct output, which
acts at once. (A PASS request: log entry 15; the stamp of an owed ON is the model's own, log entry 27.) -/
def Obligations.RequestsForRunningAndPassLoads : Prop :=
  ∀ (s : State) (src dst channel : Byte) (c : Instr) (w : Wish) (n : LoadNo) (l : Live),
    Asks src dst channel c w → s.Hears src dst 3 → s.Reaches channel n l →
    let h := s.heard .panel src
    let level := w.given l.config
    (∀ node output, l.config.target = .module node output →
      (l.config.authority = .governed → s.isHeld n = false →
        l.run.state = .on ∨ l.run.state = .restoring ∧ l.config.dimmable = true ∧ (∃ k, w = .level k) →
        exec c s = .next (h.withRunOn n l { l.run with level := level } level)) ∧
      (l.config.authority = .governed → l.run.state = .restoring → w = .on ∨ l.config.dimmable = false →
        h.ports.replies.length < 8 → exec c s = .next (h.withReply src [0, 3, channel, 0])) ∧
      (l.config.authority = .pass → s.ports.loadFifo.length < 16 →
        let t := h.withSwitch node (w.switchBody output)
        (s.isHeld n = false → exec c s = .next t) ∧
        (∀ old, s.heldFor n = some old → h.ports.replies.length < 8 → exec c s =
          .next ((t.withoutHeld n).withReply (byte old.requester) [0, 5, byte old.channel, 10])))) ∧
    ∀ d, l.config.target = .direct d → s.isHeld n = false → h.ports.replies.length < 8 →
      (∀ x ∈ s.ladder.stack, x.load ≠ n) →
      let driven (r : Runtime) : State :=
        let t := h.withRun n l r
        { t with loads := { t.loads with outputs := s.loads.outputs.set d true } }
      let reported (r : Runtime) : State := (driven r).withReport
        [byte l.config.homeChannel, 1, byte (level.getD 0), 5, if r.overdue then 2 else 0]
      (l.config.authority = .governed ∨ l.config.authority = .pass → l.run.state = .on →
        (l.run.level = level → exec c s = .next (driven { l.run with level := level })) ∧
        (l.run.level ≠ level → exec c s = .next (reported { l.run with level := level }))) ∧
      (l.config.authority = .pass → l.run.state = .off ∨ l.run.state = .lockout →
        exec c s = .next (reported (l.run.nowOn l.config level)))

/-- OFF, and LEVEL 0 the same, is never refused on a mapped channel: a request held for the load is answered
WITHDRAWN(CANCELLED) first, and then the OFF does to the load what its state asks. A load on a module owes OFF,
but an OFF for a PASS load goes to its module untouched; the output of a direct load is driven off, and a change
of its state is reported. That of an ON load with a nominal draw is a committed-draw decrease. -/
def Obligations.OffRequestTakesTheLoadOff : Prop :=
  (∀ (s : State) (src dst channel : Byte),
    exec (.levelRequest src dst channel 0) s = exec (.offRequest src dst channel) s) ∧
  ∀ (s : State) (src dst channel : Byte) (n : LoadNo) (l : Live) (h : State),
    s.Hears src dst 2 → s.Reaches channel n l →
    (s.isHeld n = false ∧ h = s.heard .panel src ∨
      (s.heard .panel src).ports.replies.length < 8 ∧ ∃ old, s.heldFor n = some old ∧
        h = ((s.heard .panel src).withoutHeld n).withReply (byte old.requester) [0, 5, byte old.channel, 12]) →
    let gives (t : State) : Prop := exec (.offRequest src dst channel) s = .next t
    let fell (t : State) : State := if l.config.draw = 0 then t else t.drawFell
    let left := { l.run with
      state := if l.run.lockout = none then .off else .lockout
      grace := none, level := none, prior := none, overdue := false, userOff := false }
    let out (t : State) : State :=
      { t with ladder := { t.ladder with stack := s.ladder.stack.filter (·.load != n) } }
    (∀ node output, l.config.target = .module node output →
      (l.config.authority = .pass → s.ports.loadFifo.length < 16 → gives (h.withSwitch node [byte output, 3])) ∧
      (l.config.authority ≠ .pass →
        (l.run.state = .on → gives (fell (h.withRun n l { l.run.nowOff l.config with owed := some .off }))) ∧
        (l.run.state = .off ∨ l.run.state = .lockout ∨ l.run.state = .unknown ∨ l.run.state = .absent →
          gives (h.withRun n l { l.run with owed := some .off })) ∧
        (l.run.state = .restoring →
          gives (h.withRun n l { l.run with withdrawn := true, owed := some .off })) ∧
        (l.run.state = .shed → gives (out (h.withRun n l { left with owed := some .off }))) ∧
        (l.run.state = .winding → h.ports.replies.length < 8 →
          gives ((h.withRun n l { l.run with userOff := true }).withReply src [0, 3, channel, 0])))) ∧
    ∀ d, l.config.target = .direct d → h.ports.replies.length < 8 →
      let driven (t : State) : State :=
        { t with loads := { t.loads with outputs := s.loads.outputs.set d false } }
      let reported (t : State) (note : Byte) : State :=
        (driven t).withReport [byte l.config.homeChannel, 2, 0, note, 0]
      (l.run.state = .on → gives (fell (reported (h.withRun n l (l.run.nowOff l.config))
        (if l.config.minOff = 0 then 3 else 4)))) ∧
      (l.run.state = .shed →
        gives (reported (out (h.withRun n l left)) (if l.run.lockout = none then 3 else 4))) ∧
      (l.run.state = .off ∨ l.run.state = .lockout → gives (driven h))

/-! ### Module reports and meter frames -/

/-- An ON report of a load that is not cuttable makes it ON, with min-on started and the answer timer
cancelled, and confirms a restore, whose stagger starts; an ON load takes the level reported. A cuttable UNKNOWN
or ABSENT load becomes ON and is shed at once, a request held for it staying held, and a report of a withdrawn
restore ends it LOCKOUT or OFF; a load that was counted, has a nominal draw and is off after it makes a
committed-draw decrease. A WINDING load stays as it is but for its answer timer. A
report that leaves the load ON decides the request held for it: a GOVERNED load owes ON at its level and a PASS
load's is forwarded untouched, both GRANTED, and a FORCED_OFF load's is WITHDRAWN(FORCED). The report is relayed
with the note of the state, and the load leaves a census that runs. (That an ON still owed carries the level then
recorded: log entry 11; GRANTED before a PASS forward: log entry 39; the stamp of an owed ON: log entry 27; that the
census ends after the report's own frames: log entry 22.) -/
def Obligations.OnReportMakesTheLoadOn : Prop :=
  ∀ (s : State) (src dst out : Byte) (level : Option Byte) (n : LoadNo) (l : Live),
    s.Hears src dst 3 → s.Reports src out n l → level.all (fun b => 1 ≤ b.toNat ∧ b.toNat ≤ 100) = true →
    s.ports.panelFifo.length < 16 →
    let h := s.heard .load src
    let taken := if l.config.dimmable then some (level.elim 100 BitVec.toNat) else none
    let carrying (lv : Option Nat) := match l.run.owed with
      | some (.on _ since) => some (.on lv since)
      | other => other
    let gives (t : State) (note flags : Byte) : Prop := exec (.onReport src dst out level) s =
      .next ((t.withRelay [byte l.config.homeChannel, 1, level.getD 0, note, flags]).heardInCensus n)
    let fell (t : State) : State :=
      let left : State := { t with control := { t.control with
        census := s.control.census.map fun asked => asked.filter (· != n) } }
      if l.config.draw = 0 then left else left.drawFell
    let r := { l.run.nowOn l.config taken with answer := none, owed := carrying taken }
    let comesOn : Prop := s.cuttable l.config = false ∧ (l.run.state = .unknown ∨ l.run.state = .absent ∨
      l.run.state = .off ∨ l.run.state = .lockout)
    let held : Byte := if s.isHeld n then 1 else 0
    (l.run.state = .restoring → l.run.withdrawn = true → s.ladder.seq = .restoring n →
      gives (fell ((h.withRun n l { l.run.nowOff l.config with answer := none }).withStagger n))
        (if l.config.minOff = 0 then 3 else 4) held) ∧
    (l.run.state = .unknown ∨ l.run.state = .absent → s.cuttable l.config = true →
      let cause := if s.cutTier ≤ l.config.tier then ShedCause.stage s.ladder.active.val else .storage
      let t := (h.withRun n l r).shedOne n cause
      gives (if l.run.state = .unknown ∧ l.config.method = .cut then fell t else t)
        (match l.config.method with
          | .wind _ _ => 6
          | .cut => if l.config.restoreAuto then 7 else if l.config.minOff = 0 then 3 else 4) held) ∧
    (l.run.state = .winding →
      gives (h.withRun n l { l.run with answer := none }) 6 (held + if l.run.overdue then 2 else 0)) ∧
    (s.isHeld n = false →
      (comesOn → gives (h.withRun n l r) 5 0) ∧
      (l.run.state = .on →
        let kept := if l.config.dimmable ∧ level ≠ none then taken else l.run.level
        gives (h.withRun n l { l.run with level := kept, answer := none, owed := carrying kept })
          5 (if l.run.overdue then 2 else 0)) ∧
      (l.run.state = .restoring → l.run.withdrawn = false → s.ladder.seq = .restoring n →
        gives ((h.withRun n l r).withStagger n) 5 0)) ∧
    ∀ q, s.heldFor n = some q → comesOn → h.ports.replies.length < 8 →
      let answered (t : State) (outcome reason : Byte) : State :=
        t.withReply (byte q.requester) [0, outcome, byte q.channel, reason]
      let wanted := q.wish.given l.config
      let t := (h.withRun n l r).withoutHeld n
      (∀ node output, l.config.target = .module node output →
        (l.config.authority = .governed →
          gives (answered ((h.withoutHeld n).withRunOn n l { r with level := wanted } wanted) 4 0) 5 1) ∧
        (l.config.authority = .pass → s.ports.loadFifo.length < 16 →
          gives ((answered t 4 0).withSwitch node (q.wish.switchBody output)) 5 1)) ∧
      (l.config.authority = .forcedOff → gives (answered t 5 2) 5 1)

/-- A local switch-on of a cuttable load that is off is enforced: it owes OFF and LOCAL_ON is raised; with
restore option AUTO it becomes SHED with its lockout started and an entry on top of the stack, with NONE it goes
off with its lockout started and without an entry. A SHED load keeps its entry. A request held for the load
stays, and the load leaves a census that runs. (The prior level after a report that carries none is a free
value, and the count `choices` the model's own, log entry 6; that the levels of a SHED load and of its entry stay
whatever level the report carries: log entry 49; that the census ends after the report's own frames: log entry
22.) -/
def Obligations.LocalSwitchOnIsEnforced : Prop :=
  ∀ (s : State) (src dst out : Byte) (level : Option Byte) (n : LoadNo) (l : Live),
    s.Hears src dst 3 → s.Reports src out n l → level.all (fun b => 1 ≤ b.toNat ∧ b.toNat ≤ 100) = true →
    s.ports.panelFifo.length < 16 →
    let h := s.heard .load src
    let gives (t : State) (note flags : Byte) : Prop := exec (.onReport src dst out level) s =
      .next ((t.withRelay [byte l.config.homeChannel, 1, level.getD 0, note, flags]).heardInCensus n)
    let held : Byte := if s.isHeld n then 1 else 0
    (l.run.state = .off ∨ l.run.state = .lockout → s.cuttable l.config = true →
      (l.config.restoreAuto = true →
        let cause := if s.cutTier ≤ l.config.tier then ShedCause.stage s.ladder.active.val else .storage
        let enforced (kept : Option Nat) : Prop :=
          let t := h.withRun n l { l.run.nowShed l.config with
            answer := none, owed := some .off, level := kept, prior := kept }
          gives (({ t with
            ladder := { t.ladder with stack := { load := n, cause := cause, prior := kept } :: s.ladder.stack }
            choices := s.choices + 1 } : State).raise .localOn) 7 held
        (l.config.dimmable = false → enforced none) ∧
        (l.config.dimmable = true → ∀ lv, level = some lv → enforced (some lv.toNat)) ∧
        (l.config.dimmable = true → level = none → ∃ k, 1 ≤ k ∧ k ≤ 100 ∧ enforced (some k))) ∧
      (l.config.restoreAuto = false →
        gives ((h.withRun n l { l.run.nowOff l.config with answer := none, owed := some .off }).raise .localOn)
          (if l.config.minOff = 0 then 3 else 4) held)) ∧
    (l.run.state = .shed →
      gives ((h.withRun n l { l.run with
        answer := none, owed := some .off
        lockout := if l.config.minOff = 0 then none else some (l.config.minOff * 1000) }).raise .localOn)
        7 (held + if l.run.overdue then 2 else 0))

/-- OFF and STOPPED reports, by the state of the load; a STOPPED that ends a wind-down makes the load
SHED in its place, or takes it out of the stack when a panel OFF was absorbed. A load that was counted and has a
nominal draw makes a committed-draw decrease, reported before the report is relayed. The load leaves a census that
runs: the census of a warm restart ends when its set is empty, and the start-up census, when no live load is
UNKNOWN, in the start mode. The change of mode out of STARTING takes the effects of its entry: into GOVERNING no
sweep, into STORAGE the sweep, the withdrawals and the quiet timer, each with a last gasp while LAST is high, and
into BYPASS every entry leaves the stack; it is handed over, an entry to GOVERNING as a scan event too. (A WIND still
owed stays owed: log entry 38; that the census ends after the report's own frames: log entry 22; the reports of a
last gasp: log entry 9; the replays of a storage sweep: log entry 45; the decreases of an entry to BYPASS: log entry
33.) -/
def Obligations.OffAndStoppedReportsSettleTheLoad : Prop :=
  (∀ (s : State) (n : LoadNo) (asked : List LoadNo), s.control.census = some asked →
    (s.control.mode = .starting → (∃ m, s.state? m = some .unknown) →
      s.heardInCensus n = { s with control := { s.control with census := some (asked.filter (· != n)) } }) ∧
    (s.control.mode = .starting → (∀ m, s.state? m ≠ some .unknown) →
      (s.heardInCensus n).control.mode =
        (if s.control.storeValid then s.mgmt.settings.startMode else .bypass) ∧
      (s.heardInCensus n).control.phase = none) ∧
    (s.control.mode = .starting → (∀ m, s.state? m ≠ some .unknown) →
      s.heardInCensus n = ({ s with control := { s.control with census := none, phase := none } } :
        State).changeMode (if s.control.storeValid then s.mgmt.settings.startMode else .bypass)) ∧
    (s.control.mode ≠ .starting → (∀ m ∈ asked, m = n) →
      s.heardInCensus n = { s with control := { s.control with census := none, phase := none } })) ∧
  (∀ s : State, s.control.mode = .starting → s.StackLaw → s.RestoreLaw → s.QueueLaw →
    let into (m : Mode) : State := { s with control := { s.control with mode := m } }
    let emptied := s.stackLoads.foldl State.releaseEntry (into .bypass)
    s.changeMode .governing = (into .governing).gasped.drawFell ∧
    s.changeMode .storage = (into .storage).enteredStorage ∧
    s.changeMode .bypass = emptied ∧ emptied.ladder.stack = [] ∧ emptied.hold = []) ∧
  ∀ (s : State) (src dst out : Byte) (n : LoadNo) (l : Live) (c : Instr) (kind : Byte),
    (c = .offReport src dst out ∧ kind = 2 ∨ c = .stoppedReport src dst out ∧ kind = 4) →
    s.Hears src dst 2 → s.Reports src out n l → s.ports.panelFifo.length < 16 →
    let h := s.heard .load src
    let gives (t : State) (note : Byte) : Prop :=
      exec c s = .next ((t.withRelay [byte l.config.homeChannel, kind, 0, note,
        (if s.isHeld n then 1 else 0) + if l.run.overdue
          ∧ (l.run.state = .shed ∨ l.run.state = .off ∨ l.run.state = .lockout) then 2 else 0]).heardInCensus n)
    let fell (t : State) : State :=
      let left : State := { t with control := { t.control with
        census := s.control.census.map fun asked => asked.filter (· != n) } }
      if l.config.draw = 0 then left else left.drawFell
    (l.run.state = .on → gives (fell (h.withRun n l { l.run.nowOff l.config with answer := none }))
      (if l.config.minOff = 0 then 3 else 4)) ∧
    (l.run.state = .unknown → gives (fell (h.withRun n l { l.run.nowPlainOff with answer := none })) 3) ∧
    (l.run.state = .absent → gives (h.withRun n l { l.run.nowPlainOff with answer := none }) 3) ∧
    (l.run.state = .restoring → s.ladder.seq = .restoring n →
      let t := h.withRun n l { l.run.nowPlainOff with answer := none }
      gives (fell { t with ladder := { t.ladder with seq := .stagger (s.ladder.live.stagger * 500) } }) 3) ∧
    (l.run.state = .shed ∨ l.run.state = .off ∨ l.run.state = .lockout →
      gives (h.withRun n l { l.run with answer := none })
        (if l.run.state = .shed then 7 else if l.run.state = .off then 3 else 4)) ∧
    (l.run.state = .winding →
      (l.config.restoreAuto = true → l.run.userOff = false →
        gives (fell (h.withRun n l { l.run.nowShed l.config with answer := none })) 7) ∧
      (l.config.restoreAuto = false ∨ l.run.userOff = true →
        let t := h.withRun n l { l.run.nowOff l.config with answer := none }
        gives (fell { t with ladder := { t.ladder with stack := s.ladder.stack.filter (·.load != n) } })
          (if l.config.minOff = 0 then 3 else 4)))

/-- A WINDING report takes an UNKNOWN or ABSENT load to OFF, and a withdrawn RESTORING load, whose stagger starts;
a load in any other state stays as it is but for its answer timer. A FAULT
report takes a load in any state to OFF, out of the stack and of its timers, ends its restore, whose stagger
starts, keeps an owed OFF alone, answers a request held for the load WITHDRAWN(FAULT), and raises LOAD_FAULT. A
load that was counted, has a nominal draw and is off after it makes a committed-draw decrease. Both are relayed
with the note of the state, and the load leaves a census that runs. (That the census ends after the report's own
frames: log entry 22.) -/
def Obligations.WindingAndFaultReports : Prop :=
  ∀ (s : State) (src dst out : Byte) (n : LoadNo) (l : Live),
    s.Hears src dst 2 → s.Reports src out n l → s.ports.panelFifo.length < 16 →
    let h := s.heard .load src
    let gives (c : Instr) (kind : Byte) (t : State) (note flags : Byte) : Prop :=
      exec c s = .next ((t.withRelay [byte l.config.homeChannel, kind, 0, note, flags]).heardInCensus n)
    let fell (t : State) : State :=
      let left : State := { t with control := { t.control with
        census := s.control.census.map fun asked => asked.filter (· != n) } }
      if l.config.draw = 0 then left else left.drawFell
    let held : Byte := if s.isHeld n then 1 else 0
    let off := h.withRun n l { l.run.nowPlainOff with answer := none }
    (l.run.state = .unknown → gives (.windingReport src dst out) 3 (fell off) 3 held) ∧
    (l.run.state = .absent → gives (.windingReport src dst out) 3 off 3 held) ∧
    (l.run.state = .restoring → l.run.withdrawn = true → s.ladder.seq = .restoring n →
      gives (.windingReport src dst out) 3 (fell (off.withStagger n)) 3 held) ∧
    (∀ note : Byte,
      (l.run.state = .off ∧ note = 3 ∨ l.run.state = .lockout ∧ note = 4 ∨
        l.run.state = .on ∧ s.isHeld n = false ∧ note = 5 ∨ l.run.state = .winding ∧ note = 6 ∨
        l.run.state = .shed ∧ note = 7 ∨ l.run.state = .restoring ∧ l.run.withdrawn = false ∧ note = 8) →
      gives (.windingReport src dst out) 3 (h.withRun n l { l.run with answer := none }) note
        (held + if l.run.overdue then 2 else 0)) ∧
    ∀ h' : State, (s.isHeld n = false ∧ h' = h ∨ h.ports.replies.length < 8 ∧ ∃ q, s.heldFor n = some q ∧
        h' = (h.withoutHeld n).withReply (byte q.requester) [0, 5, byte q.channel, 13]) →
    let t := h'.withRun n l { l.run.nowPlainOff with
      answer := none, owed := if l.run.owed = some .off then some .off else none }
    let faulted := (({ t with ladder := { t.ladder with
      stack := s.ladder.stack.filter (·.load != n) } } : State).withStagger n).raise .loadFault
    gives (.faultReport src dst out) 5 (if l.run.state = .on ∨ l.run.state = .restoring ∨
      l.run.state = .winding ∨ l.run.state = .unknown then fell faulted else faulted) 3 0

/-- A METER frame crosses whether or not it is taken: it joins the relay FIFO toward the panel line
unchanged, or finds it full and is dropped with RELAY_OVERFLOW. It is taken when it comes from the monitor
node with a good body once LOAD has ended, dropped or not, and then replaces the values, restarts the
staleness timer, makes STALE low and sets CHARGE; otherwise it changes no value, timer or signal. A frame that is
taken is evaluated if it changes a signal, and brings the overrun judgement, which starts, keeps or cancels the
overrun timer, and a scan event while a BUDGET entry stands. (A fall of OVER is taken last: log entry 20.) -/
def Obligations.MeterFrameIsTakenOrOnlyCrosses : Prop :=
  ∀ (s : State) (src dst : Byte) (body : List Byte), s.Hears src dst body.length →
    let h := s.heard .load src
    let full : Prop := 16 ≤ s.ports.panelFifo.length
    let fifo := s.ports.panelFifo ++ [{ kind := .meter, src := src, dst := dst, body := body }]
    (src.toNat ≠ s.mgmt.settings.monitorNode ∨ meterOfBody body = none ∨ s.beforeLoadEnds = true →
      (¬ full → exec (.meterArrival src dst body) s =
        .next { h with ports := { h.ports with panelFifo := fifo } }) ∧
      (full → exec (.meterArrival src dst body) s = .next (h.raise .relayOverflow))) ∧
    ∀ v, src.toNat = s.mgmt.settings.monitorNode → s.beforeLoadEnds = false → meterOfBody body = some v →
      (¬ full →
        let taken : State := { h with
          ports := { h.ports with panelFifo := fifo }
          meter := {
            current := some v.current, soc := some v.soc, temperature := v.temperature
            solar := v.solar, alternator := v.alternator, shore := v.shore
            staleTimer := some (s.mgmt.settings.staleTimeout * 1000), stale := false
            charge := v.solar || v.alternator || v.shore }
          watches := s.watches.map (Watch.takeMeter v) }
        let judged (t : State) : Prop := exec (.meterArrival src dst body) s =
          .next (if s.ladder.stack.any (·.cause == .budget) then t.scanEvent else t)
        taken.word = s.word →
          (s.ladder.live.ceiling s.ladder.active < (-v.current).toNat →
            judged { taken with ladder := { s.ladder with
              overrun := some (s.ladder.overrun.getD (s.ladder.live.overrunDwell * 1000)) } }) ∧
          ((-v.current).toNat ≤ s.ladder.live.ceiling s.ladder.active → s.ladder.overHigh = false →
            judged { taken with ladder := { s.ladder with overrun := none } })) ∧
      (¬ full → h.control.doze = false →
        let taken : State := { h with
          ports := { h.ports with panelFifo := fifo }
          meter := {
            current := some v.current, soc := some v.soc, temperature := v.temperature
            solar := v.solar, alternator := v.alternator, shore := v.shore
            staleTimer := some (s.mgmt.settings.staleTimeout * 1000), stale := false
            charge := v.solar || v.alternator || v.shore }
          watches := s.watches.map (Watch.takeMeter v) }
        let judged := (if taken.word = s.word then taken
          else taken.evaluate { rises := taken.word &&& ~~~s.word, falls := s.word &&& ~~~taken.word }).judgeOverrun
        exec (.meterArrival src dst body) s = .next
          ((if judged.ladder.stack.any (·.cause == .budget) then judged.scanEvent else judged).takeOverFall s)) ∧
      ∃ t, exec (.meterArrival src dst body) s = .next t ∧
        t.meter = {
          current := some v.current, soc := some v.soc, temperature := v.temperature
          solar := v.solar, alternator := v.alternator, shore := v.shore
          staleTimer := some (s.mgmt.settings.staleTimeout * 1000), stale := false
          charge := v.solar || v.alternator || v.shore } ∧
        t.watches = s.watches.map (Watch.takeMeter v) ∧ t.mgmt = s.mgmt ∧ t.ladder.live = s.ladder.live ∧
        (∀ n, (t.live? n).map (·.config) = (s.live? n).map (·.config)) ∧
        (¬ full → t.ports.panelFifo = fifo) ∧
        (full → t.ports.panelFifo = s.ports.panelFifo ∧
          t.attention[Cause.relayOverflow.index].pending = true)

/-! ### The Sense Unit -/

/-- SENSE during SETTLE is NOT_READY; otherwise it takes the slot, answering SUPERSEDED to a request that
held it, and its conversion begins at once when the converter is free. (The converter after the frame is heard: a
round that the end of doze begins has taken it, log entry 48.) -/
def Obligations.SenseRequestTakesTheSlot : Prop :=
  ∀ (s : State) (src input : Byte) (i : SenseInput), s.Takes src 2 → inputOfByte input = some i →
    let h := s.heard .panel src
    let asked (begun : Bool) : SenseRequest := { requester := src.toNat, input := i, begun := begun }
    (s.control.phase = some .settle → exec (.sense src input) s = .next (h.withReply src [20, 9])) ∧
    (s.control.phase ≠ some .settle → h.sense.slot = none → h.sense.converting = none →
      exec (.sense src input) s = .next { h with sense := { h.sense with
        slot := some (asked true), converting := some { input := i, forRequest := true } } }) ∧
    (s.control.phase ≠ some .settle → h.sense.slot = none → h.sense.converting ≠ none →
      exec (.sense src input) s = .next { h with sense := { h.sense with slot := some (asked false) } }) ∧
    (∀ old, s.control.phase ≠ some .settle → h.sense.slot = some old → h.sense.converting ≠ none →
      exec (.sense src input) s = .next
        (({ h with sense := { h.sense with slot := some (asked false) } } : State).withReply
          (byte old.requester) [20, 10]))

/-- A scan round converts LEISURE, CHASSIS, AUX and SUPPLY, and a round that comes due during another is
owed; the end of a conversion replaces the latest reading of its input, saturated, feeds the watches on it
and LAST, and the change of signals it makes is taken; then it answers the request it was made for, and the
converter takes the next, a request that waits in the slot first and an owed round last. (The answer after the
frames of the change: log entry 47.) -/
def Obligations.ConversionsReplaceTheReading : Prop :=
  (∀ s : State, s.sense.scanTimer ≠ none →
    (s.sense.round = none → s.sense.slot = none → s.sense.converting = none →
      exec .scanRoundStart s = .next { s with sense := { s.sense with
        round := some [.chassis, .aux, .supply], roundOwed := false
        scanTimer := some (if s.control.doze then 2000 else 100)
        converting := some { input := .leisure, forRequest := false } } }) ∧
    (s.sense.round ≠ none →
      exec .scanRoundStart s = .next { s with sense := { s.sense with roundOwed := true } })) ∧
  ∀ (s : State) (i : SenseInput) (reading : Int),
    let v := if reading < 0 then 0 else if 4000 < reading then 4000 else reading.toNat
    let read : State := { s with
      sense := { s.sense.setReading i v with
        converting := none
        last := if i = .supply then
            (if s.sense.last then v ≤ s.mgmt.settings.preWarning * 10 + 30 else v < s.mgmt.settings.preWarning * 10)
          else s.sense.last }
      watches := s.watches.map fun w => if some w.defn.source = i.source then w.sample v else w }
    let changed := read.takeChange s
    (s.sense.converting = some { input := i, forRequest := false } → s.sense.slot = none →
      (∀ j rest, s.sense.round = some (j :: rest) →
        exec (.scanConversionEnd reading) s = .next { changed with sense := { changed.sense with
          round := some rest, converting := some { input := j, forRequest := false } } }) ∧
      (s.sense.round = some [] → changed.sense.roundOwed = false →
        exec (.scanConversionEnd reading) s = .next { changed with sense := { changed.sense with round := none } }) ∧
      (s.sense.round = some [] → changed.sense.roundOwed = true →
        exec (.scanConversionEnd reading) s = .next { changed with sense := { changed.sense with
          round := some [.chassis, .aux, .supply], roundOwed := false
          scanTimer := some (if changed.control.doze then 2000 else 100)
          converting := some { input := .leisure, forRequest := false } } })) ∧
    (∀ q j, s.sense.converting = some { input := i, forRequest := false } →
      s.sense.slot = some { requester := q, input := j, begun := false } →
      let begun (round : Option (List SenseInput)) : State := { changed with sense := { changed.sense with
        round := round, converting := some { input := j, forRequest := true }
        slot := some { requester := q, input := j, begun := true } } }
      (∀ k rest, s.sense.round = some (k :: rest) →
        exec (.scanConversionEnd reading) s = .next (begun (some (k :: rest)))) ∧
      (s.sense.round = some [] → changed.sense.roundOwed = false →
        exec (.scanConversionEnd reading) s = .next (begun none))) ∧
    (∀ q, s.sense.converting = some { input := i, forRequest := true } →
      s.sense.slot = some { requester := q, input := i, begun := true } → s.sense.round = none →
      let freed : State := { read with sense := { read.sense with slot := none } }
      exec (.requestConversionEnd reading) s = .next ((freed.takeChange s).joinReply
        { kind := .reply, src := s.own, dst := byte q, body := [20, 0, byte i.code] ++ word16 v })) ∧
    (s.sense.converting = some { input := i, forRequest := false } →
      ∃ t, exec (.scanConversionEnd reading) s = .next t ∧ t.watches = read.watches ∧
        t.sense.leisure = read.sense.leisure ∧ t.sense.chassis = read.sense.chassis ∧
        t.sense.aux = read.sense.aux ∧ t.sense.supply = read.sense.supply ∧ t.sense.last = read.sense.last)

/-! ### Modes, start-up and resets -/

/-- SET MODE to the mode in force changes nothing; an accepted change puts the new mode in force and keeps every
configuration and table, drafts, Channel Map and Node Side Table among them; SET MODE and WARM RESTART are BUSY in
STARTING and during a warm-restart census; WARM RESTART withdraws every held request, closes the cursor, empties the
sense slot, records itself and begins a census of the module loads, keeping the mode. -/
def Obligations.ModeRequestsAndWarmRestart : Prop :=
  ∀ (s : State) (src mode : Byte) (m : Mode), modeOfByte mode = some m → s.mgmt.save = none →
    let h := s.heard .panel src
    let same (t : State) : Prop :=
      t.mgmt.settings = s.mgmt.settings ∧ t.ladder.live = s.ladder.live ∧ t.meter = s.meter ∧
        t.watches = s.watches ∧ t.loads.map = s.loads.map ∧ t.ladder.draft = s.ladder.draft ∧
        t.sides = h.sides ∧ (∀ n : LoadNo, t.loads.slots[n].draft = s.loads.slots[n].draft) ∧
        ∀ n, (t.live? n).map (·.config) = (s.live? n).map (·.config)
    (s.TakesWrite src 2 →
      (s.control.mode = .starting ∨ s.control.census ≠ none →
        exec (.setMode src mode) s = .next (h.withReply src [21, 4])) ∧
      (s.control.mode ≠ .starting → s.control.census = none → s.control.mode = m →
        exec (.setMode src mode) s = .next (h.withReply src [21, 0])) ∧
      (s.Lawful → s.control.mode ≠ .starting → s.control.census = none → s.control.mode ≠ m →
        ∃ t, exec (.setMode src mode) s = .next t ∧ t.control.mode = m ∧ same t ∧
          (m = .bypass → t.ladder.stack = []))) ∧
    (s.TakesWrite src 1 →
      (s.control.mode = .starting ∨ s.control.census ≠ none →
        exec (.warmRestart src) s = .next (h.withReply src [23, 4])) ∧
      (s.control.mode ≠ .starting → s.control.census = none →
        ∃ t, exec (.warmRestart src) s = .next t ∧ t.control.mode = s.control.mode ∧ same t ∧
          t.control.lastReset = .warmRestart ∧ t.control.storeValid = s.control.storeValid ∧
          t.mgmt.cursor = none ∧ t.hold = [] ∧ t.sense.slot = none ∧
          t.control.census = if s.moduleLoads = [] then none else some s.moduleLoads))

/-- The effects of an accepted change of mode. Entry to GOVERNING from BYPASS sheds the loads
cuttable under the active stage, and entry to STORAGE every GOVERNED load of tier 1 or above, in shed order
and with ENFORCED, each shed with its decrease; entry to STORAGE then withdraws the held requests of tier 1 or above
and starts the quiet timer. With LAST high an entry to GOVERNING or STORAGE makes last gasp after that, raising
LAST_GASP again, with its decreases. An entry to GOVERNING is last of all a scan event and a replay event, one to
STORAGE a replay event. The STORAGE entries at leaving STORAGE, and every entry at an entry to BYPASS, leave the
stack: a SHED load becomes LOCKOUT or OFF, a WINDING load OFF owing OFF; at leaving STORAGE for GOVERNING they leave
from the top down, each decrease reported as it is made; entry to BYPASS withdraws every held request and switches
nothing on (log entry 33). (The place of ENFORCED: log entry 21; the decreases of a last gasp at an entry: log entry
9; the replays of a storage sweep: log entry 45.) -/
def Obligations.ModeChangesTakeTheirEffects : Prop :=
  ∀ (s : State) (src : Byte), s.TakesWrite src 2 → s.mgmt.save = none → s.control.census = none →
    s.Lawful →
    let h := s.heard .panel src
    let into (m : Mode) : State := { h with control := { h.control with mode := m } }
    let gives (code : Byte) (t : State) : Prop := exec (.setMode src code) s = .next (t.joinReply
      { kind := .reply, src := s.own, dst := src, body := [21, 0] })
    let swept (p : Live → Bool) : List LoadNo := s.inShedOrder fun l =>
      l.config.authority == .governed && 1 ≤ l.config.tier && (l.run.state == .on || l.run.state == .restoring)
        && p l
    let enforced (loads : List LoadNo) (t : State) : State := if loads = [] then t else t.raise .enforced
    let quiet (t : State) : State := { t with control := { t.control with quiet := some 60000 } }
    let answers (reason : Byte) : List Frame := s.hold.map fun e =>
      { kind := .reply, src := s.own, dst := byte e.requester, body := [0, 5, byte e.channel, reason] }
    let gone (t : State) (e : StackEntry) : Prop := ∀ l node output, s.live? e.load = some l →
      l.config.target = .module node output →
      (l.run.state = .shed → t.live? e.load = some { l with run := { l.run with
        state := if l.run.lockout = none then .off else .lockout
        grace := none, level := none, prior := none, overdue := false, userOff := false } }) ∧
      (l.run.state = .winding →
        t.live? e.load = some { l with run := { l.run.nowPlainOff with owed := some .off } })
    let loads := swept fun l => s.cutTier ≤ l.config.tier
    let all := swept fun _ => true
    (s.control.mode = .bypass → gives 1 (enforced loads
      (loads.foldl (fun t n => t.shed (.stage s.ladder.active.val) n) (into .governing))).gasped.drawFell) ∧
    (s.control.mode = .governing ∨ s.control.mode = .bypass → gives 3 (into .storage).enteredStorage) ∧
    (∀ u : State, u.control.mode = .governing ∨ u.control.mode = .storage →
      let cut := ((u.inShedOrder fun l => l.config.authority == .governed && 1 ≤ l.config.tier
        && (l.run.state == .on || l.run.state == .restoring || l.run.state == .winding)).foldl
          State.gaspOne u).raise .lastGasp
      (u.sense.last = true → u.gasped =
        ((List.finRange 48).filter fun n => cut.loads.slots[n].draw < u.loads.slots[n].draw).foldl
          (fun t _ => t.drawFell) cut) ∧
      (u.sense.last = false → u.gasped = u)) ∧
    (s.sense.last = false → s.control.mode = .bypass → s.hold = [] → gives 1 (enforced loads
      (loads.foldl (fun t n => t.shedOne n (.stage s.ladder.active.val)) (into .governing)))) ∧
    (s.sense.last = false → s.control.mode = .governing ∨ s.control.mode = .bypass → s.hold = [] →
      gives 3 (enforced all (quiet (all.foldl (fun t n => t.shedOne n .storage) (into .storage))))) ∧
    (s.sense.last = false → s.control.mode = .governing → all = [] →
      (∀ e ∈ s.hold, ∃ l, s.live? e.load = some l ∧ 1 ≤ l.config.tier) →
      h.ports.replies.length + s.hold.length ≤ 7 →
      gives 3 (quiet { into .storage with
        hold := [], ports := { h.ports with replies := h.ports.replies ++ answers 15 } })) ∧
    (∀ (u : State) (n : LoadNo) (l : Live), u.live? n = some l →
      let out (t : State) : State :=
        { t with ladder := { t.ladder with stack := u.ladder.stack.filter (·.load != n) } }
      let left := { l.run with
        state := if l.run.lockout = none then .off else .lockout
        grace := none, level := none, prior := none, overdue := false, userOff := false }
      (l.run.state ≠ .shed → l.run.state ≠ .winding → u.releaseEntry n = u) ∧
      (∀ node output, l.config.target = .module node output →
        (l.run.state = .shed → u.releaseEntry n = out (u.withRun n l left)) ∧
        (l.run.state = .winding →
          let t := out (u.withRun n l { l.run.nowPlainOff with owed := some .off })
          u.releaseEntry n = if l.config.draw = 0 ∨ u.control.mode = .bypass then t else t.drawFell)) ∧
      ∀ d, l.config.target = .direct d → l.run.state = .shed → u.loads.outputs[d] = false →
        u.ports.replies.length < 8 → u.releaseEntry n = (out (u.withRun n l left)).withReport
          [byte l.config.homeChannel, 2, 0, if l.run.lockout = none then 3 else 4, if u.isHeld n then 1 else 0]) ∧
    (s.control.mode = .storage →
      let left := ((s.ladder.stack.filter (·.cause == .storage)).map (·.load)).foldl State.releaseEntry
        (into .governing)
      gives 1 ({ left with control := { left.control with quiet := none } } : State).gasped.drawFell) ∧
    (s.sense.last = false → s.control.mode = .storage → s.hold = [] → s.ladder.seq ≠ .idle →
      ∃ t, exec (.setMode src 1) s = .next t ∧ t.control.mode = .governing ∧
        t.control.quiet = none ∧ t.control.doze = false ∧
        t.ladder.stack = s.ladder.stack.filter (·.cause != .storage) ∧
        (∀ e ∈ s.ladder.stack, e.cause = .storage → gone t e) ∧
        ∀ n, (∀ e ∈ s.ladder.stack, e.cause = .storage → e.load ≠ n) → t.live? n = s.live? n) ∧
    (s.control.mode = .governing ∨ s.control.mode = .storage →
      ∃ t, exec (.setMode src 2) s = .next t ∧ t.control.mode = .bypass ∧ t.ladder.stack = [] ∧
        t.hold = [] ∧ t.ladder.seq = s.ladder.seq ∧ (∀ e ∈ s.ladder.stack, gone t e) ∧
        (∀ n, (∀ e ∈ s.ladder.stack, e.load ≠ n) → t.live? n = s.live? n) ∧
        ((∀ e ∈ s.ladder.stack, ∀ l, s.live? e.load = some l → ∃ node output,
            l.config.target = .module node output) →
          h.ports.replies.length + s.hold.length ≤ 7 →
          t.ports.replies = h.ports.replies ++ answers 16
            ++ [{ kind := .reply, src := s.own, dst := src, body := [21, 0] }]))

/-- SETTLE ends in LOAD with the first scan round; LOAD ends by installing the store's tables with each
load UNKNOWN or OFF, or the defaults with TABLE_LOST and, the census being empty, in BYPASS; the quiet
timer's expiry begins doze. (How the interval grows as doze
begins is log entry 26.) -/
def Obligations.StartUpInstallsTheTables : Prop :=
  (∀ s : State, s.control.phase = some .settle → s.control.settle ≠ none → s.ladder.live = .default →
    s.ladder.active = 0 → s.sense.slot = none → s.sense.converting = none →
    exec .settleEnd s = .next { s with
      control := { s.control with phase := some .load, settle := none }
      ladder := { s.ladder with exitDwell := none }
      sense := { s.sense with
        round := some [.chassis, .aux, .supply], roundOwed := false
        scanTimer := some (if s.control.doze then 2000 else 100)
        converting := some { input := .leisure, forRequest := false } } }) ∧
  (∀ (s : State) (undamaged : Bool), s.Lawful → s.control.phase = some .load →
    (undamaged = false ∨ s.mgmt.store = none) →
    ∃ t, exec (.loadComplete undamaged) s = .next t ∧ t.control.mode = .bypass ∧ t.control.phase = none ∧
      t.control.storeValid = false ∧ t.mgmt.settings = .default ∧ t.ladder.live = s.ladder.live ∧
      t.attention[Cause.tableLost.index].pending = true ∧
      (∀ w : WatchNo, t.watches[w].defn.enable = false ∧ t.watches[w].output = false) ∧
      t.loads.map = Vector.replicate 128 none ∧ ∀ n, t.live? n = none) ∧
  (∀ (s : State) (c : StoreContent), s.Lawful → s.control.phase = some .load → s.mgmt.store = some c →
    ∃ t, exec (.loadComplete true) s = .next t ∧ t.control.storeValid = true ∧ t.ladder.live = c.ladder ∧
      t.mgmt.settings = c.settings ∧ t.watches = c.watches.map Watch.fresh ∧
      t.loads.map = c.map ∧ ∀ n : LoadNo, (t.live? n).map (·.config) = c.configs[n] ∧
        t.state? n = c.configs[n].map fun k => match k.target with
          | .module _ _ => .unknown
          | .direct _ => .off) ∧
  ∀ (s : State) (left : Nat), s.control.quiet = some left →
    exec .quietTimerExpiry s = .next { s with
      control := { s.control with doze := true, quiet := none }
      sense := { s.sense with scanTimer := s.sense.scanTimer.map (· + 1900), roundOwed := false } }

/-- POWER-ON, BROWN-OUT and RESET LINE hold the part with every volatile thing at its reset value, the
store kept; the reset cause record names the kind that began the hold, and POWER-ON loses it; start-up
begins at SETTLE when the last cause of the hold ends. (Of the reset values, the fields of the disabled watch
definitions are the model's choice, log entry 18, and the counts `choices` and `decisions` its own, log
entries 5 and 27.) -/
def Obligations.ResetsHoldThePartAndStartIt : Prop :=
  ∀ s : State,
    let held (k : ResetKind) (valid supply line : Bool) : State := { State.reset with
      mgmt := { State.reset.mgmt with store := s.mgmt.store }
      control := { State.reset.control with
        settle := none, lastReset := k, storeValid := valid, supplyHold := supply, lineHold := line }
      choices := s.choices
      pending := s.pending }
    let c := s.control
    let began (k : ResetKind) : ResetKind := if c.supplyHold || c.lineHold then c.lastReset else k
    exec .powerOn s = .next (held .powerOn false true c.lineHold) ∧
    exec .brownOut s = .next (held (began .brownOut) c.storeValid true c.lineHold) ∧
    exec .resetLineAssert s = .next (held (began .resetLine) c.storeValid c.supplyHold true) ∧
    (c.lineHold = true → c.supplyHold = false → exec .resetLineRelease s =
      .next { s with control := { c with lineHold := false, settle := some 500 } }) ∧
    (c.lineHold = true → c.supplyHold = true → exec .resetLineRelease s =
      .next { s with control := { c with lineHold := false } }) ∧
    (c.supplyHold = true → c.lineHold = false → exec .supplyRecovery s =
      .next { s with control := { c with supplyHold := false, settle := some 500 } }) ∧
    (c.supplyHold = true → c.lineHold = true → exec .supplyRecovery s =
      .next { s with control := { c with supplyHold := false } })

/-! ### The transmitters -/

/-- The load-line transmitter sends the owed OFF or WIND first in shed order, then the oldest owed ON, then
the QUERY of the lowest load number, then the oldest relayed frame; the command is cleared at its start and
the timer that goes with it starts. A dimmable load's ON goes out as LEVEL with the recorded level. A load whose
command starts no answer timer leaves a census that runs. (The age of an owed ON is its stamp, log entry 27; an ON
whose load has no recorded level goes out with its own, log entry 11; a WIND sent after its wind-down has ended
starts no timer, log entry 38; that the census ends at the end of the event: log entry 22.) -/
def Obligations.LoadLineSendsByClass : Prop :=
  ∀ s : State, s.ports.loadTx = none →
    let owing (p : Owed → Prop) (n : LoadNo) (l : Live) (o : Owed) : Prop :=
      s.live? n = some l ∧ l.run.owed = some o ∧ p o
    let down (o : Owed) : Prop := o = .off ∨ o = .wind
    let noOne (p : Owed → Prop) : Prop := ∀ n l o, ¬ owing p n l o
    let isOn (o : Owed) : Prop := ∃ level since, o = .on level since
    let started (n : LoadNo) (l : Live) (body : List Byte) (r : Runtime) (node : Nat) : State :=
      let t := s.withRun n l r
      { t with ports := { s.ports with loadTx := some {
          kind := .switch, src := s.own, dst := byte node, body := body } } }
    let asks (n : LoadNo) (l : Live) (body : Nat → List Byte) (r : Runtime) : Prop :=
      ∀ node output, l.config.target = .module node output →
        exec .loadTxStart s = .next (started n l (body output) r node)
    let sends (n : LoadNo) (l : Live) (body : Nat → List Byte) (r : Runtime) : Prop :=
      ∀ node output, l.config.target = .module node output →
        exec .loadTxStart s = .next ((started n l (body output) r node).heardInCensus n)
    let answer := some (s.mgmt.settings.answerTimeout * 100)
    (∀ n l o, owing down n l o →
      (∀ m k q, owing down m k q → m ≠ n → shedBefore l.config n k.config m = true) →
      (o = .off → l.run.state ≠ .unknown → l.run.state ≠ .restoring →
        sends n l (fun output => [byte output, 3]) { l.run with owed := none }) ∧
      (o = .off → l.run.state = .unknown ∨ l.run.state = .restoring →
        asks n l (fun output => [byte output, 3]) { l.run with owed := none, answer := answer }) ∧
      (o = .wind → l.run.state = .winding → ∀ grace action, l.config.method = .wind grace action →
        sends n l (fun output => [byte output, 4]) { l.run with owed := none, grace := some (grace * 1000) }) ∧
      (o = .wind → l.run.state = .shed ∨ l.run.state = .lockout ∨ l.run.state = .off →
        sends n l (fun output => [byte output, 4]) { l.run with owed := none })) ∧
    (∀ n l level since, noOne down → owing isOn n l (.on level since) →
      (∀ m k lv q, owing isOn m k (.on lv q) → m ≠ n → since < q) →
      let body (output : Nat) : List Byte :=
        if l.config.dimmable then [byte output, 2, byte ((l.run.level.or level).getD 100)] else [byte output, 1]
      (l.run.state = .unknown ∨ l.run.state = .restoring →
        asks n l body { l.run with owed := none, answer := answer }) ∧
      (l.run.state ≠ .unknown → l.run.state ≠ .restoring → sends n l body { l.run with owed := none })) ∧
    (∀ n l, noOne down → noOne isOn → owing (· = .query) n l .query →
      (∀ m k, owing (· = .query) m k .query → n ≤ m) →
      asks n l (fun output => [byte output, 5]) { l.run with owed := none, answer := answer }) ∧
    (noOne (fun _ => True) →
      (∀ f rest, s.ports.loadFifo = f :: rest →
        exec .loadTxStart s = .next { s with ports := { s.ports with loadTx := some f, loadFifo := rest } }) ∧
      (s.ports.loadFifo = [] → exec .loadTxStart s = .next s))

/-- The panel-line transmitter starts the oldest frame of the reply list, then of the relay FIFO, one at a
time; the end of a frame frees its line. -/
def Obligations.PanelLineSendsRepliesFirst : Prop :=
  ∀ s : State,
    (s.ports.panelTx = none → ∀ f rest, s.ports.replies = f :: rest →
      exec .panelTxStart s = .next { s with ports := { s.ports with panelTx := some f, replies := rest } }) ∧
    (s.ports.panelTx = none → s.ports.replies = [] → ∀ f rest, s.ports.panelFifo = f :: rest →
      exec .panelTxStart s = .next { s with ports := { s.ports with panelTx := some f, panelFifo := rest } }) ∧
    (s.ports.panelTx ≠ none ∨ (s.ports.replies = [] ∧ s.ports.panelFifo = []) →
      exec .panelTxStart s = .next s) ∧
    (s.ports.loadTx ≠ none → exec .loadTxStart s = .next s) ∧
    exec .panelTxEnd s = .next { s with ports := { s.ports with panelTx := none } } ∧
    exec .loadTxEnd s = .next { s with ports := { s.ports with loadTx := none } }

/-! ### Timers -/

/-- The expiries of a load's timers: min-on changes no state, a lockout makes LOCKOUT into OFF, which a direct
load reports, and leaves SHED; an unanswered load becomes ABSENT with NO_ANSWER, out of the stack, and an
unanswered restore ends, a withdrawn one making the load OFF, and each leaves a census that runs; a grace that runs
out marks the load overdue or cuts it, SHED in its place, or out of the stack with restore option NONE or after an
absorbed OFF, with WIND_TIMEOUT. A lockout that runs out is a scan event for a stacked load and a replay event for a
load with a request held, and a counted load with a nominal draw that is off after the expiry makes a committed-draw
decrease. (That a withdrawn restore's owed OFF goes with it: log entry 32; that a command
owed at a KEEP expiry stays owed: log entry 44; that the census ends after the expiry's own frames: log entry
22.) -/
def Obligations.LoadTimersExpire : Prop :=
  ∀ (s : State) (n : LoadNo) (l : Live), s.live? n = some l →
    let gives (c : Instr) (t : State) : Prop := exec c s = .next t
    let out (t : State) : State :=
      { t with ladder := { t.ladder with stack := s.ladder.stack.filter (·.load != n) } }
    let unlocked := s.withRun n l { l.run with
      lockout := none, state := if l.run.state = .lockout then .off else l.run.state }
    gives (.minOnExpiry n) (s.withRun n l { l.run with minOn := none }) ∧
    let handed (t : State) : Prop :=
      let counted : State := { t with choices := t.choices + 1 }
      (s.stacked n = false → s.isHeld n = false → gives (.lockoutExpiry n) t) ∧
      (s.stacked n = true → s.isHeld n = false → gives (.lockoutExpiry n) t.scanEvent) ∧
      (s.stacked n = false → s.isHeld n = true → gives (.lockoutExpiry n) t.replayEvent) ∧
      (s.stacked n = true → s.isHeld n = true → gives (.lockoutExpiry n) counted.scanEvent.replayEvent ∨
        gives (.lockoutExpiry n) counted.replayEvent.scanEvent)
    let fell (t : State) : State := if l.config.draw = 0 then t else t.drawFell
    let unasked (t : State) : State := { t with control := { t.control with
      census := s.control.census.map fun asked => asked.filter (· != n) } }
    (∀ d, l.config.target = .direct d → l.run.lockout ≠ none →
      (l.run.state ≠ .lockout → handed unlocked) ∧
      (l.run.state = .lockout → s.loads.outputs[d] = false → s.ports.replies.length < 8 →
        handed (unlocked.withReport [byte l.config.homeChannel, 2, 0, 3,
          (if s.isHeld n then 1 else 0) + if l.run.overdue then 2 else 0]))) ∧
    ∀ node output, l.config.target = .module node output →
      (l.run.lockout ≠ none → handed unlocked) ∧
      (l.run.answer ≠ none →
        let absent := out (s.withRun n l { l.run.nowPlainOff with state := .absent, owed := none, answer := none })
        (l.run.state = .off ∨ l.run.state = .lockout ∨ l.run.state = .shed ∨ l.run.state = .absent →
            s.ladder.seq ≠ .restoring n →
          gives (.answerExpiry n) ((absent.raise .noAnswer).heardInCensus n)) ∧
        (l.run.state = .unknown ∨ l.run.state = .on ∨ l.run.state = .winding → s.ladder.seq ≠ .restoring n →
          gives (.answerExpiry n) ((fell (unasked (absent.raise .noAnswer))).heardInCensus n)) ∧
        (l.run.state = .restoring → l.run.withdrawn = false → s.ladder.seq = .restoring n →
          gives (.answerExpiry n) ((fell (unasked ((absent.withStagger n).raise .noAnswer))).heardInCensus n)) ∧
        (l.run.state = .restoring → l.run.withdrawn = true → s.ladder.seq = .restoring n →
          gives (.answerExpiry n) ((fell (unasked ((s.withRun n l { l.run.nowPlainOff with
            owed := none, answer := none }).withStagger n))).heardInCensus n))) ∧
      ∀ grace action, l.run.state = .winding → l.run.grace ≠ none → l.config.method = .wind grace action →
        (action = .keep → gives (.graceExpiryKeep n)
          ((s.raise .windTimeout).withRun n l { l.run with overdue := true, grace := none })) ∧
        (action = .cut →
          (l.config.restoreAuto = true → l.run.userOff = false → gives (.graceExpiryCut n)
            (fell ((s.raise .windTimeout).withRun n l { l.run.nowShed l.config with owed := some .off }))) ∧
          (l.config.restoreAuto = false ∨ l.run.userOff = true → gives (.graceExpiryCut n)
            (fell (out ((s.raise .windTimeout).withRun n l { l.run.nowOff l.config with owed := some .off })))))

/-- The overrun judgement, and the expiries of the meter, with METER_STALE, of a watch, each with the condition
change it makes, of the exit dwell, with the stage left and STAGE_CHANGE, of the overrun, with the rise of OVER
evaluated after the budget shed, of the stagger, with the scan it makes and the replay when that finds nothing, and
of a held request. A budget shed takes the first, in shed order, of the GOVERNED loads of tier 1 or above that are
ON with no min-on running. (The rise of OVER is taken after the budget shed: log entry 19; the stamp `decisions` of
an owed ON: log entry 27.) -/
def Obligations.LadderTimersExpire : Prop :=
  (∀ s : State, s.meter.staleTimer ≠ none →
    let stale : State := { s with
      meter := { s.meter with stale := true, staleTimer := none }
      watches := s.watches.map fun w => if w.defn.source.isMeter then { w with dwell := none } else w }
    exec .stalenessExpiry s = .next ((stale.raise .meterStale).takeChange s)) ∧
  (∀ (s : State) (w : WatchNo), s.watches[w].dwell ≠ none →
    let moved : State := { s with
      watches := s.watches.set w { s.watches[w] with output := !s.watches[w].output, dwell := none } }
    exec (.watchDwellExpiry w) s = .next (moved.takeChange s)) ∧
  (∀ s : State, s.meter.staleTimer ≠ none → ∃ t, exec .stalenessExpiry s = .next t ∧
    t.meter = { s.meter with stale := true, staleTimer := none } ∧
    t.attention[Cause.meterStale.index].pending = true ∧
    t.watches = s.watches.map fun w => if w.defn.source.isMeter then { w with dwell := none } else w) ∧
  (∀ (s : State) (w : WatchNo), s.watches[w].dwell ≠ none → ∃ t, exec (.watchDwellExpiry w) s = .next t ∧
    t.watches = s.watches.set w { s.watches[w] with output := !s.watches[w].output, dwell := none }) ∧
  (∀ s : State, s.ladder.exitDwell ≠ none → s.candidate .none = 0 →
    ∃ t : State, exec .exitDwellExpiry s = .next (t.takeOverFall s) ∧
      t.ladder.active = s.lowerStage ∧ t.attention[Cause.stageChange.index].pending = true ∧
      t.ladder.live = s.ladder.live ∧ t.meter = s.meter) ∧
  (∀ s : State, s.budgetVictims = s.inShedOrder fun l =>
    l.config.authority == .governed && 1 ≤ l.config.tier && l.run.state == .on && l.run.minOn == none) ∧
  (∀ s : State, s.ladder.overrun ≠ none → s.ladder.overHigh = true →
    s.control.mode = .bypass ∨ s.control.mode = .starting →
    exec .overrunExpiry s = .next { s with ladder := { s.ladder with
      overrun := some (s.ladder.live.overrunDwell * 1000) } }) ∧
  (∀ s : State, s.ladder.overrun ≠ none → s.ladder.overHigh = true →
    s.control.mode = .governing ∨ s.control.mode = .storage →
    let t : State :=
      { s with ladder := { s.ladder with overrun := some (s.ladder.live.overrunDwell * 1000) } }
    (∀ n rest, s.budgetVictims = n :: rest → exec .overrunExpiry s = .next (t.shed .budget n)) ∧
    (s.budgetVictims = [] → exec .overrunExpiry s = .next (t.raise .budgetStuck))) ∧
  (∀ s : State, s.ladder.overrun ≠ none → s.ladder.overHigh = false → s.control.doze = false →
    let t : State := { s with ladder := { s.ladder with
      overrun := some (s.ladder.live.overrunDwell * 1000), overHigh := true } }
    let evaluated (u : State) : Prop := exec .overrunExpiry s =
      .next ((u.evaluate { rises := 1#12 <<< 10, falls := 0 }).takeOverFall u)
    t.signal 10 = true ∧
    (s.control.mode = .bypass ∨ s.control.mode = .starting → evaluated t) ∧
    (s.control.mode = .governing ∨ s.control.mode = .storage →
      (∀ n rest, s.budgetVictims = n :: rest → evaluated (t.shed .budget n)) ∧
      (s.budgetVictims = [] → evaluated (t.raise .budgetStuck)))) ∧
  (∀ s : State,
    let exceeds : Prop := ∃ c, s.meter.current = some c ∧ s.meter.stale = false ∧ s.ceiling < (-c).toNat
    (exceeds → s.judgeOverrun = { s with ladder := { s.ladder with
      overrun := some (s.ladder.overrun.getD (s.ladder.live.overrunDwell * 1000)) } }) ∧
    (¬ exceeds → s.judgeOverrun = { s with ladder := { s.ladder with overrun := none, overHigh := false } })) ∧
  (∀ (s : State) (left : Nat), s.ladder.seq = .stagger left → s.hold = [] → s.nextRestore = none →
    exec .staggerExpiry s = .next { s with ladder := { s.ladder with seq := .idle } }) ∧
  (∀ (s : State) (left : Nat), s.ladder.seq = .stagger left →
    let idle : State := { s with ladder := { s.ladder with seq := .idle } }
    (idle.nextRestore ≠ none → exec .staggerExpiry s = .next idle.scanEvent) ∧
    (idle.nextRestore = none → exec .staggerExpiry s = .next idle.replayEvent)) ∧
  (∀ (s : State) (left : Nat) (above below : List StackEntry) (e : StackEntry) (l : Live) (node output : Nat),
    s.ladder.seq = .stagger left → s.ladder.stack = above ++ e :: below →
    (∀ x ∈ above, s.eligible x = false) → s.eligible e = true → s.live? e.load = some l →
    l.config.target = .module node output → (∀ lv since, l.run.owed ≠ some (.on lv since)) →
    s.isHeld e.load = false → (∀ x ∈ above ++ below, x.load ≠ e.load) →
    let level := if l.config.dimmable then e.prior else none
    let t := s.withRun e.load l { l.run with
      state := .restoring, level := level, prior := none, answer := none, withdrawn := false
      owed := some (.on level s.loads.decisions) }
    exec .staggerExpiry s = .next { t with
      loads := { t.loads with decisions := s.loads.decisions + 1 }
      ladder := { t.ladder with stack := above ++ below, seq := .restoring e.load } }) ∧
  ∀ (s : State) (n : LoadNo) (e : Held), s.heldFor n = some e → e.lifetime ≠ none →
    s.ports.replies.length < 8 →
    exec (.holdLifetimeExpiry n) s = .next ((({ s with hold := s.hold.filter (·.load != n) } :
      State).withReply (byte e.requester) [0, 5, byte e.channel, 11]).raise .holdExpired)

/-! ### Shedding, restoring and replay -/

/-- The shed order puts every load it is asked for in one list, once, those of higher tier first, then
those of higher draw, then those of higher number. -/
def Obligations.ShedOrderIsTotal : Prop :=
  ∀ (s : State) (p : Live → Bool),
    (∀ n, n ∈ s.inShedOrder p ↔ ∃ l, s.live? n = some l ∧ p l = true) ∧
    (s.inShedOrder p).Nodup ∧
    (s.inShedOrder p).Pairwise fun a b => ∀ k l, s.live? a = some k → s.live? b = some l →
      l.config.tier < k.config.tier ∨
      (k.config.tier = l.config.tier ∧ (l.config.draw < k.config.draw ∨
        (k.config.draw = l.config.draw ∧ b < a)))

/-- One shed of an ON load, or of a RESTORING one whose restore it ends with the stagger started: CUT with AUTO
makes it SHED with an entry on top, CUT with NONE takes it off without one, WIND makes it WINDING with an entry; a
load on a module owes the command, and the output of a direct load is driven off and its report made. A withdrawn
restore's load becomes OFF, owes OFF and is not pushed. Last gasp takes, in GOVERNING and STORAGE alone, each
GOVERNED load of tier 1 or above that is ON, RESTORING or WINDING, cuts one that is ON or RESTORING whatever its
method, and a WINDING one with its entry lifted to the top; at the end of the two
takings of a rise of LAST, by the ladder and by Mode Control in either order, each such load is off, and then each
decrease and the stage change are reported. (That the record keeps its level is log entry 10, and that these
reports wait for both takings log entry 9.) -/
def Obligations.ShedAndLastGaspOfOneLoad : Prop :=
  (∀ (s : State) (n : LoadNo) (l : Live) (cause : ShedCause), s.live? n = some l →
    l.config.authority = .governed → 1 ≤ l.config.tier →
    (l.run.state = .on ∨ l.run.state = .restoring) →
    let running : Prop := l.run.state = .on ∨ l.run.withdrawn = false
    let withdrawn : Prop := l.run.state = .restoring ∧ l.run.withdrawn = true
    let kept := if l.config.dimmable then l.run.level else none
    let pushed (t : State) (cause : ShedCause) : State := { t with ladder := { t.ladder with
      stack := { load := n, cause := cause, prior := kept } :: s.ladder.stack } }
    let answer := if l.run.state = .restoring then none else l.run.answer
    let cut := { l.run.nowShed l.config with prior := kept, answer := answer }
    (∀ node output, l.config.target = .module node output →
      let owing := s.withRun n l { cut with owed := some .off }
      (running → l.config.method = .cut → l.config.restoreAuto = true →
        s.shedOne n cause = (pushed owing cause).withStagger n) ∧
      (running → l.config.method = .cut → l.config.restoreAuto = false → s.shedOne n cause =
        (s.withRun n l { l.run.nowOff l.config with answer := answer, owed := some .off }).withStagger n) ∧
      (∀ grace action, running → l.config.method = .wind grace action →
        s.shedOne n cause = (pushed (s.withRun n l { l.run with
          state := .winding, owed := some .wind, prior := kept, minOn := none, lockout := none, grace := none
          answer := answer, overdue := false, userOff := false, withdrawn := false }) cause).withStagger n) ∧
      (running → s.gaspOne n = (pushed owing .lastGasp).withStagger n) ∧
      (withdrawn →
        let ended := (s.withRun n l { l.run.nowPlainOff with answer := none, owed := some .off }).withStagger n
        s.shedOne n cause = ended ∧ s.gaspOne n = ended)) ∧
    ∀ d, l.config.target = .direct d → l.run.state = .on → s.ladder.seq ≠ .restoring n → s.isHeld n = false →
      s.ports.replies.length < 8 →
      let driven (t : State) (note : Byte) : State :=
        ({ t with loads := { t.loads with outputs := s.loads.outputs.set d false } } : State).withReport
          [byte l.config.homeChannel, 2, 0, note, 0]
      (l.config.method = .cut → l.config.restoreAuto = true →
        s.shedOne n cause = driven (pushed (s.withRun n l cut) cause) 7) ∧
      (l.config.method = .cut → l.config.restoreAuto = false →
        s.shedOne n cause = driven (s.withRun n l (l.run.nowOff l.config))
          (if l.config.minOff = 0 then 3 else 4)) ∧
      s.gaspOne n = driven (pushed (s.withRun n l cut) .lastGasp) 7) ∧
  (∀ (s : State) (n : LoadNo) (cause : ShedCause), s.shed cause n =
    if (s.shedOne n cause).draw < s.draw then (s.shedOne n cause).drawFell else s.shedOne n cause) ∧
  (∀ (s : State) (n : LoadNo) (l : Live) (node output : Nat) (above below : List StackEntry) (e : StackEntry),
    s.live? n = some l → l.config.target = .module node output → l.config.authority = .governed →
    1 ≤ l.config.tier → l.run.state = .winding → s.ladder.seq ≠ .restoring n →
    s.ladder.stack = above ++ e :: below → e.load = n → (∀ x ∈ above ++ below, x.load ≠ n) →
    let t := s.withRun n l { l.run.nowShed l.config with owed := some .off }
    s.gaspOne n = { t with ladder := { t.ladder with
      stack := { e with cause := .lastGasp } :: (above ++ below) } }) ∧
  (∀ (s : State) (c : Change), s.control.mode = .governing ∨ s.control.mode = .storage →
    let t := s.takeRise c
    let told := ((List.finRange 48).filter fun n => t.loads.slots[n].draw < s.loads.slots[n].draw).foldl
      (fun u _ => u.drawFell) t
    (∀ n l, t.live? n = some l → l.config.authority = .governed → 1 ≤ l.config.tier →
      l.run.state ≠ .on ∧ l.run.state ≠ .restoring ∧ l.run.state ≠ .winding) ∧
    s.lastRises c = if t.ladder.active = s.ladder.active then told else told.stageChanged) ∧
  ∀ s : State,
    (s.control.mode = .governing ∨ s.control.mode = .storage →
      s.lastGasp = ((s.inShedOrder fun l => l.config.authority == .governed && 1 ≤ l.config.tier
        && (l.run.state == .on || l.run.state == .restoring || l.run.state == .winding)).foldl
          State.gaspOne s).raise .lastGasp) ∧
    (s.control.mode = .bypass ∨ s.control.mode = .starting → s.lastGasp = s.raise .lastGasp)

/-- An entry is eligible by the conditions of R106 and its cause's of R107; a scan restores the first
eligible one from the top, a load on a module becoming RESTORING and owing ON with its prior level, a
direct load coming on at once with its report and the stagger started; a scan event in RESTORING or STAGGER
does nothing. A request held for the load is answered GRANTED, and a held LEVEL for a dimmable load replaces the
level. (The stamp `decisions` of the owed ON is the model's own, log entry 27; the frames of a direct load and
their order: log entry 14.) -/
def Obligations.ScanRestoresTheFirstEligible : Prop :=
  (∀ (s : State) (e : StackEntry) (l : Live), s.live? e.load = some l →
    (s.eligible e = true ↔ s.control.mode = .governing ∧ l.config.tier < s.cutTier ∧
      l.config.restoreAuto = true ∧ l.run.state = .shed ∧ l.run.lockout = none ∧
      s.draw + l.config.draw ≤ s.ceiling ∧ e.cause ≠ .storage ∧
      (e.cause = .budget → ∃ c, s.meter.current = some c ∧ s.meter.stale = false ∧ s.ladder.overHigh = false ∧
        (-c).toNat + l.config.draw ≤ s.ceiling))) ∧
  (∀ s : State, s.ladder.seq ≠ .idle → s.scanEvent = s) ∧
  ∀ (s : State) (above below : List StackEntry) (e : StackEntry) (l : Live),
    s.ladder.seq = .idle → s.ladder.stack = above ++ e :: below → (∀ x ∈ above, s.eligible x = false) →
    s.eligible e = true → s.live? e.load = some l → (∀ x ∈ above ++ below, x.load ≠ e.load) →
    let level := if l.config.dimmable then e.prior else none
    let wanted (q : Held) : Option Nat := match q.wish with
      | .on => level
      | .level k => if l.config.dimmable then some k else level
    let granted (t : State) (q : Held) : State :=
      (t.withoutHeld e.load).withReply (byte q.requester) [0, 4, byte q.channel, 0]
    (∀ node output, l.config.target = .module node output → (∀ lv since, l.run.owed ≠ some (.on lv since)) →
      let restored (lv : Option Nat) (stamp : Nat) : State :=
        let t := s.withRun e.load l { l.run with
          state := .restoring, level := lv, prior := none, lockout := none, answer := none, withdrawn := false
          owed := some (.on lv stamp) }
        { t with
          loads := { t.loads with decisions := stamp + 1 }
          ladder := { t.ladder with stack := above ++ below, seq := .restoring e.load } }
      (s.isHeld e.load = false → s.scanEvent = restored level s.loads.decisions) ∧
      (∀ q, s.heldFor e.load = some q → s.ports.replies.length < 8 →
        s.scanEvent = granted (restored (wanted q)
          (s.loads.decisions + if wanted q = level then 0 else 1)) q)) ∧
    ∀ d, l.config.target = .direct d →
      let restored (lv : Option Nat) : State :=
        let t := s.withRun e.load l (l.run.nowOn l.config lv)
        { t with
          loads := { t.loads with outputs := s.loads.outputs.set d true }
          ladder := { t.ladder with
            stack := above ++ below, seq := .stagger (s.ladder.live.stagger * 500) } }
      let report (lv : Option Nat) (flags : Byte) : List Byte :=
        [byte l.config.homeChannel, 1, byte (lv.getD 0), 5, flags]
      (s.isHeld e.load = false → s.ports.replies.length < 8 →
        s.scanEvent = (restored level).withReport (report level 0)) ∧
      (∀ q, s.heldFor e.load = some q → s.ports.replies.length < 6 →
        let t := granted ((restored (wanted q)).withReport (report level 1)) q
        s.scanEvent = if wanted q = level then t else t.withReport (report (wanted q) 0))

/-- A replay goes through the queue once, oldest first; it is made only with the sequencer IDLE and nothing
eligible. A request that check 12 passes switches its load on, out of the stack if it stands there, and is answered
GRANTED. One whose check still applies stays; a FORCED_OFF, ABSENT or stored load's is withdrawn; a PASS load's is
answered GRANTED and forwarded untouched. A committed-draw decrease and a stage change reach the restore sequencer
and the Admission Unit, in either order; committed draw is the sum over the ON, RESTORING, WINDING and UNKNOWN
loads. (GRANTED before a PASS forward: log entry 39; the stamp of an owed ON is the model's
own, log entry 27; a report before the answer: log entry 13). -/
def Obligations.ReplayJudgesTheQueue : Prop :=
  (∀ s : State, s.ladder.seq ≠ .idle ∨ s.nextRestore ≠ none → s.replayEvent = s) ∧
  (∀ s : State, s.ladder.seq = .idle → s.nextRestore = none →
    s.replayEvent = s.hold.foldl State.replayEntry s) ∧
  (∀ s : State,
    let t : State := { s with choices := s.choices + 1 }
    (s.hold = [] → s.drawFell = s.scanEvent ∧ s.stageChanged = s.scanEvent) ∧
    (s.hold ≠ [] → s.stageChanged = s.drawFell ∧
      (s.drawFell = t.scanEvent.replayEvent ∨ s.drawFell = t.replayEvent.scanEvent))) ∧
  (∀ s : State, s.draw = ((List.finRange 48).map fun n => match s.live? n with
    | some l => if l.run.state = .on ∨ l.run.state = .restoring ∨ l.run.state = .winding ∨
        l.run.state = .unknown then l.config.draw else 0
    | none => 0).sum) ∧
  ∀ (s : State) (e : Held) (l : Live), s.live? e.load = some l → s.heldFor e.load = some e →
    s.control.mode ≠ .bypass → s.ports.replies.length < 8 →
    let answered (t : State) (outcome reason : Byte) : State :=
      t.withReply (byte e.requester) [0, outcome, byte e.channel, reason]
    let left (reason : Byte) : State := answered (s.withoutHeld e.load) 5 reason
    let out (t : State) : State :=
      { t with ladder := { t.ladder with stack := s.ladder.stack.filter (·.load != e.load) } }
    let level := e.wish.given l.config
    let r := l.run.nowOn l.config level
    let reported (t : State) : State := t.withReport [byte l.config.homeChannel, 1, byte (level.getD 0), 5, 0]
    let driven (t : State) (d : Fin 4) : State :=
      { t with loads := { t.loads with outputs := s.loads.outputs.set d true } }
    let off : Prop := l.run.state = .off ∨ l.run.state = .lockout ∨ l.run.state = .shed
    let passes : Prop := (s.control.mode = .storage → l.config.tier = 0) ∧
      (l.run.state = .off ∨ l.run.state = .shed ∧ l.run.lockout = none) ∧
      l.config.tier < s.cutTier ∧ s.draw + l.config.draw ≤ s.ceiling
    (l.config.authority = .governed → passes →
      (∀ node output, l.config.target = .module node output →
        s.replayEntry e = answered (out ((s.withoutHeld e.load).withRunOn e.load l r level)) 4 0) ∧
      (∀ d, l.config.target = .direct d → s.ports.replies.length < 7 →
        s.replayEntry e = answered (reported (driven (out ((s.withoutHeld e.load).withRun e.load l r)) d)) 4 0)) ∧
    (l.config.authority = .pass →
      (∀ node output, l.config.target = .module node output → s.ports.loadFifo.length < 16 →
        s.replayEntry e =
          (answered (s.withoutHeld e.load) 4 0).withSwitch node (e.wish.switchBody output)) ∧
      (∀ d, l.config.target = .direct d → off → s.ports.replies.length < 7 →
        s.replayEntry e = reported (driven (out ((answered (s.withoutHeld e.load) 4 0).withRun e.load l r)) d))) ∧
    (l.config.authority = .forcedOff → s.replayEntry e = left 2) ∧
    (l.config.authority = .governed → l.run.state = .absent → s.replayEntry e = left 4) ∧
    (l.config.authority = .governed → off → s.control.mode = .storage → 1 ≤ l.config.tier →
      s.replayEntry e = left 15) ∧
    (l.config.authority = .governed → s.control.mode ≠ .storage →
      l.run.state = .unknown ∨ l.run.state = .winding ∨ (off ∧ s.cutTier ≤ l.config.tier) ∨
        l.run.state = .lockout ∨ (l.run.state = .shed ∧ l.run.lockout ≠ none) ∨
        (off ∧ s.ceiling < s.draw + l.config.draw) →
      s.replayEntry e = s)

/-- When a pattern is satisfied, by the terms it gives the twelve signals and its mode, and when an edge
term of it holds. A condition change, the set of signals that differ from the word before, each with its direction,
ends doze and brings one evaluation, with the overrun judgement if STALE is among them; a rise of LAST brings last
gasp as well, in either order; no difference brings nothing. A fall of OVER is a condition change of its own and a
scan event for the sequencer, in either order (log entry 20). An evaluation escalates to the highest enabled stage
above whose entry is satisfied; otherwise the exit pattern of the active stage starts, keeps or cancels the exit
dwell, or at an edge leaves the stage, for the highest enabled stage below whose entry holds on levels, or for
stage 0. Each change of stage raises STAGE_CHANGE and brings the overrun judgement at the new stage's ceiling. -/
def Obligations.EvaluationSelectsTheStage : Prop :=
  (∀ (p : Pattern) (word : CondWord) (c : Change),
    let holds (k : Fin 12) : Prop := match p.terms[k] with
      | .ignore => False
      | .low => word.getLsbD k = false
      | .high => word.getLsbD k = true
      | .rise => c.rises.getLsbD k = true
      | .fall => c.falls.getLsbD k = true
      | .edge => c.rises.getLsbD k = true ∨ c.falls.getLsbD k = true
    let edge (k : Fin 12) : Prop := p.terms[k] = .rise ∨ p.terms[k] = .fall ∨ p.terms[k] = .edge
    (p.any = false → (p.satisfied word c = true ↔
      (∃ k : Fin 12, p.terms[k] ≠ .ignore) ∧ ∀ k : Fin 12, p.terms[k] ≠ .ignore → holds k)) ∧
    (p.any = true → (p.satisfied word c = true ↔ ∃ k, holds k)) ∧
    (p.edgeHolds word c = true ↔ ∃ k, edge k ∧ holds k) ∧
    (p.any = false → (∃ k, edge k) → p.onLevels word = false) ∧
    (p.any = true → (p.onLevels word = true ↔ ∃ k, ¬ edge k ∧ holds k))) ∧
  (∀ before t : State, (t.control.doze = true → t.control.mode = .storage) →
    let woken := if t.control.doze = true then t.lineActivity else t
    let fall : Change := { rises := 0, falls := 1#12 <<< 10 }
    let counted (u : State) : State := { u with choices := u.choices + 1 }
    (before.ladder.overHigh = false ∨ t.ladder.overHigh = true → t.takeOverFall before = t) ∧
    (before.ladder.overHigh = true → t.ladder.overHigh = false →
      (t.ladder.stack = [] → t.takeOverFall before = woken.evaluate fall) ∧
      (t.ladder.stack ≠ [] → t.takeOverFall before = ((counted woken).evaluate fall).scanEvent ∨
        t.takeOverFall before = (counted woken).scanEvent.evaluate fall))) ∧
  (∀ before t : State, (t.control.doze = true → t.control.mode = .storage) →
    let woken := if t.control.doze = true then t.lineActivity else t
    let c : Change := { rises := t.word &&& ~~~before.word, falls := before.word &&& ~~~t.word }
    let stale : Prop := c.rises.getLsbD 8 = true ∨ c.falls.getLsbD 8 = true
    let counted : State := { woken with choices := woken.choices + 1 }
    let changed (u : State) (r : State) : Prop :=
      (stale → r = (u.evaluate c).judgeOverrun) ∧ (¬ stale → r = u.evaluate c)
    (t.word = before.word → t.takeChange before = t) ∧
    (t.word ≠ before.word → c.rises.getLsbD 11 = false →
      ∃ r, changed woken r ∧ t.takeChange before = r.takeOverFall before) ∧
    (c.rises.getLsbD 11 = true → t.control.mode = .governing ∨ t.control.mode = .storage →
      t.takeChange before = (woken.lastRises c).takeOverFall before) ∧
    (c.rises.getLsbD 11 = true → t.control.mode = .bypass ∨ t.control.mode = .starting →
      (∃ r, changed counted r ∧ t.takeChange before = r.lastGasp.takeOverFall before) ∨
      ∃ r, changed counted.lastGasp r ∧ t.takeChange before = r.takeOverFall before)) ∧
  ∀ (s : State) (c : Change),
    let candidate (i : Fin 8) : Prop := s.ladder.active < i ∧ s.ladder.live.enabled i = true ∧
      (s.ladder.live.entry i).satisfied s.word c = true
    let exit := s.ladder.live.exit s.ladder.active
    let starts := s.ladder.exitDwell.getD (s.ladder.live.exitDwell s.ladder.active * 1000)
    let overran : Prop := ∃ current, s.meter.current = some current ∧ s.meter.stale = false ∧
      s.ladder.live.ceiling (s.evaluate c).ladder.active < (-current).toNat
    let lower (i : Fin 8) : Prop := i < s.ladder.active ∧ s.ladder.live.enabled i = true ∧
      (s.ladder.live.entry i).onLevels s.word = true
    (∀ i, lower i → (∀ j, lower j → j ≤ i) → s.lowerStage = i) ∧
    ((∀ i, ¬ lower i) → s.lowerStage = 0) ∧
    ((s.evaluate c).ladder.active ≠ s.ladder.active →
      (overran → (s.evaluate c).ladder.overrun =
        some (s.ladder.overrun.getD (s.ladder.live.overrunDwell * 1000))) ∧
      (¬ overran → (s.evaluate c).ladder.overrun = none ∧ (s.evaluate c).ladder.overHigh = false)) ∧
    (∀ i, candidate i → (∀ j, candidate j → j ≤ i) →
      (s.evaluate c).ladder.active = i ∧ (s.evaluate c).attention[Cause.stageChange.index].pending = true) ∧
    ((∀ i, ¬ candidate i) →
      (exit.satisfied s.word c = false →
        s.evaluate c = { s with ladder := { s.ladder with exitDwell := none } }) ∧
      (exit.satisfied s.word c = true → exit.edgeHolds s.word c = false →
        s.evaluate c = { s with ladder := { s.ladder with exitDwell := some starts } }) ∧
      (exit.satisfied s.word c = true → exit.edgeHolds s.word c = true →
        (s.evaluate c).ladder.active = s.lowerStage ∧
        (s.evaluate c).attention[Cause.stageChange.index].pending = true))
end

