-- ==== Sys2Proof/Laws/State.lean ====
section
/-! SUPPORT. What each record update of the machine leaves as it was, and what it makes of the field it changes: one lemma per update, true by rfl, so that no later proof unfolds a record update. -/

namespace Sys2Proof.Laws

set_option Elab.async false

open Sys2Proof.Machine

@[simp] theorem modifyCause_fields (s : State) (i : Fin 15) (f : CauseFlags → CauseFlags) :
    (s.modifyCause i f).loads = s.loads ∧ (s.modifyCause i f).ports = s.ports ∧
    (s.modifyCause i f).sides = s.sides ∧ (s.modifyCause i f).sense = s.sense ∧
    (s.modifyCause i f).meter = s.meter ∧ (s.modifyCause i f).watches = s.watches ∧
    (s.modifyCause i f).ladder = s.ladder ∧ (s.modifyCause i f).hold = s.hold ∧
    (s.modifyCause i f).mgmt = s.mgmt ∧ (s.modifyCause i f).attention = s.attention.set i (f s.attention[i]) ∧
    (s.modifyCause i f).control = s.control ∧ (s.modifyCause i f).choices = s.choices ∧
    (s.modifyCause i f).pending = s.pending :=
  ⟨rfl, rfl, rfl, rfl, rfl, rfl, rfl, rfl, rfl, rfl, rfl, rfl, rfl⟩

@[simp] theorem pushReply_fields (s : State) (f : Frame) :
    (s.pushReply f).loads = s.loads ∧
    (s.pushReply f).ports = { s.ports with replies := s.ports.replies ++ [f] } ∧
    (s.pushReply f).sides = s.sides ∧ (s.pushReply f).sense = s.sense ∧ (s.pushReply f).meter = s.meter ∧
    (s.pushReply f).watches = s.watches ∧ (s.pushReply f).ladder = s.ladder ∧ (s.pushReply f).hold = s.hold ∧
    (s.pushReply f).mgmt = s.mgmt ∧ (s.pushReply f).attention = s.attention ∧
    (s.pushReply f).control = s.control ∧ (s.pushReply f).choices = s.choices ∧
    (s.pushReply f).pending = s.pending :=
  ⟨rfl, rfl, rfl, rfl, rfl, rfl, rfl, rfl, rfl, rfl, rfl, rfl, rfl⟩

@[simp] theorem setSlot_fields (s : State) (n : LoadNo) (slot : Slot) :
    (s.setSlot n slot).loads = { s.loads with slots := s.loads.slots.set n slot } ∧
    (s.setSlot n slot).ports = s.ports ∧ (s.setSlot n slot).sides = s.sides ∧
    (s.setSlot n slot).sense = s.sense ∧ (s.setSlot n slot).meter = s.meter ∧
    (s.setSlot n slot).watches = s.watches ∧ (s.setSlot n slot).ladder = s.ladder ∧
    (s.setSlot n slot).hold = s.hold ∧ (s.setSlot n slot).mgmt = s.mgmt ∧
    (s.setSlot n slot).attention = s.attention ∧ (s.setSlot n slot).control = s.control ∧
    (s.setSlot n slot).choices = s.choices ∧ (s.setSlot n slot).pending = s.pending :=
  ⟨rfl, rfl, rfl, rfl, rfl, rfl, rfl, rfl, rfl, rfl, rfl, rfl, rfl⟩

@[simp] theorem modifyLive_fields (s : State) (n : LoadNo) (f : Live → Live) :
    (s.modifyLive n f).ports = s.ports ∧ (s.modifyLive n f).sides = s.sides ∧
    (s.modifyLive n f).sense = s.sense ∧ (s.modifyLive n f).meter = s.meter ∧
    (s.modifyLive n f).watches = s.watches ∧ (s.modifyLive n f).ladder = s.ladder ∧
    (s.modifyLive n f).hold = s.hold ∧ (s.modifyLive n f).mgmt = s.mgmt ∧
    (s.modifyLive n f).attention = s.attention ∧ (s.modifyLive n f).control = s.control ∧
    (s.modifyLive n f).choices = s.choices ∧ (s.modifyLive n f).pending = s.pending :=
  ⟨rfl, rfl, rfl, rfl, rfl, rfl, rfl, rfl, rfl, rfl, rfl, rfl⟩

@[simp] theorem changeRun_fields (s : State) (n : LoadNo) (f : LoadConfig → Runtime → Runtime) :
    (s.changeRun n f).ports = s.ports ∧ (s.changeRun n f).sides = s.sides ∧
    (s.changeRun n f).sense = s.sense ∧ (s.changeRun n f).meter = s.meter ∧
    (s.changeRun n f).watches = s.watches ∧ (s.changeRun n f).ladder = s.ladder ∧
    (s.changeRun n f).hold = s.hold ∧ (s.changeRun n f).mgmt = s.mgmt ∧
    (s.changeRun n f).attention = s.attention ∧ (s.changeRun n f).control = s.control ∧
    (s.changeRun n f).choices = s.choices ∧ (s.changeRun n f).pending = s.pending :=
  ⟨rfl, rfl, rfl, rfl, rfl, rfl, rfl, rfl, rfl, rfl, rfl, rfl⟩

@[simp] theorem push_fields (s : State) (e : StackEntry) :
    (s.push e).loads = s.loads ∧ (s.push e).ports = s.ports ∧ (s.push e).sides = s.sides ∧
    (s.push e).sense = s.sense ∧ (s.push e).meter = s.meter ∧ (s.push e).watches = s.watches ∧
    (s.push e).ladder = { s.ladder with stack := e :: s.ladder.stack } ∧ (s.push e).hold = s.hold ∧
    (s.push e).mgmt = s.mgmt ∧ (s.push e).attention = s.attention ∧ (s.push e).control = s.control ∧
    (s.push e).choices = s.choices ∧ (s.push e).pending = s.pending :=
  ⟨rfl, rfl, rfl, rfl, rfl, rfl, rfl, rfl, rfl, rfl, rfl, rfl, rfl⟩

@[simp] theorem unstack_fields (s : State) (n : LoadNo) :
    (s.unstack n).loads = s.loads ∧ (s.unstack n).ports = s.ports ∧ (s.unstack n).sides = s.sides ∧
    (s.unstack n).sense = s.sense ∧ (s.unstack n).meter = s.meter ∧ (s.unstack n).watches = s.watches ∧
    (s.unstack n).ladder = { s.ladder with stack := s.ladder.stack.filter (·.load != n) } ∧
    (s.unstack n).hold = s.hold ∧ (s.unstack n).mgmt = s.mgmt ∧ (s.unstack n).attention = s.attention ∧
    (s.unstack n).control = s.control ∧ (s.unstack n).choices = s.choices ∧
    (s.unstack n).pending = s.pending :=
  ⟨rfl, rfl, rfl, rfl, rfl, rfl, rfl, rfl, rfl, rfl, rfl, rfl, rfl⟩

@[simp] theorem modifyEntry_fields (s : State) (n : LoadNo) (f : StackEntry → StackEntry) :
    (s.modifyEntry n f).loads = s.loads ∧ (s.modifyEntry n f).ports = s.ports ∧
    (s.modifyEntry n f).sides = s.sides ∧ (s.modifyEntry n f).sense = s.sense ∧
    (s.modifyEntry n f).meter = s.meter ∧ (s.modifyEntry n f).watches = s.watches ∧
    (s.modifyEntry n f).ladder = { s.ladder with stack := s.ladder.stack.map fun e => if e.load = n then f e else e } ∧
    (s.modifyEntry n f).hold = s.hold ∧ (s.modifyEntry n f).mgmt = s.mgmt ∧
    (s.modifyEntry n f).attention = s.attention ∧ (s.modifyEntry n f).control = s.control ∧
    (s.modifyEntry n f).choices = s.choices ∧ (s.modifyEntry n f).pending = s.pending :=
  ⟨rfl, rfl, rfl, rfl, rfl, rfl, rfl, rfl, rfl, rfl, rfl, rfl, rfl⟩

@[simp] theorem setSeq_fields (s : State) (q : Sequencer) :
    (s.setSeq q).loads = s.loads ∧ (s.setSeq q).ports = s.ports ∧ (s.setSeq q).sides = s.sides ∧
    (s.setSeq q).sense = s.sense ∧ (s.setSeq q).meter = s.meter ∧ (s.setSeq q).watches = s.watches ∧
    (s.setSeq q).ladder = { s.ladder with seq := q } ∧ (s.setSeq q).hold = s.hold ∧
    (s.setSeq q).mgmt = s.mgmt ∧ (s.setSeq q).attention = s.attention ∧ (s.setSeq q).control = s.control ∧
    (s.setSeq q).choices = s.choices ∧ (s.setSeq q).pending = s.pending :=
  ⟨rfl, rfl, rfl, rfl, rfl, rfl, rfl, rfl, rfl, rfl, rfl, rfl, rfl⟩

@[simp] theorem setSide_fields (s : State) (node : Nat) (side : NodeSide) :
    (s.setSide node side).loads = s.loads ∧ (s.setSide node side).ports = s.ports ∧
    (s.setSide node side).sides = s.sides.setIfInBounds (node - 1) side ∧
    (s.setSide node side).sense = s.sense ∧ (s.setSide node side).meter = s.meter ∧
    (s.setSide node side).watches = s.watches ∧ (s.setSide node side).ladder = s.ladder ∧
    (s.setSide node side).hold = s.hold ∧ (s.setSide node side).mgmt = s.mgmt ∧
    (s.setSide node side).attention = s.attention ∧ (s.setSide node side).control = s.control ∧
    (s.setSide node side).choices = s.choices ∧ (s.setSide node side).pending = s.pending :=
  ⟨rfl, rfl, rfl, rfl, rfl, rfl, rfl, rfl, rfl, rfl, rfl, rfl, rfl⟩

@[simp] theorem wake_fields (s : State) :
    (s.wake).loads = s.loads ∧ (s.wake).ports = s.ports ∧ (s.wake).sides = s.sides ∧
    (s.wake).sense = s.sense ∧ (s.wake).meter = s.meter ∧ (s.wake).watches = s.watches ∧
    (s.wake).ladder = s.ladder ∧ (s.wake).hold = s.hold ∧ (s.wake).mgmt = s.mgmt ∧
    (s.wake).attention = s.attention ∧ (s.wake).control = { s.control with doze := false } ∧
    (s.wake).choices = s.choices ∧ (s.wake).pending = s.pending :=
  ⟨rfl, rfl, rfl, rfl, rfl, rfl, rfl, rfl, rfl, rfl, rfl, rfl, rfl⟩

@[simp] theorem stopQuiet_fields (s : State) :
    (s.stopQuiet).loads = s.loads ∧ (s.stopQuiet).ports = s.ports ∧ (s.stopQuiet).sides = s.sides ∧
    (s.stopQuiet).sense = s.sense ∧ (s.stopQuiet).meter = s.meter ∧ (s.stopQuiet).watches = s.watches ∧
    (s.stopQuiet).ladder = s.ladder ∧ (s.stopQuiet).hold = s.hold ∧ (s.stopQuiet).mgmt = s.mgmt ∧
    (s.stopQuiet).attention = s.attention ∧ (s.stopQuiet).control = { s.control with quiet := none } ∧
    (s.stopQuiet).choices = s.choices ∧ (s.stopQuiet).pending = s.pending :=
  ⟨rfl, rfl, rfl, rfl, rfl, rfl, rfl, rfl, rfl, rfl, rfl, rfl, rfl⟩

@[simp] theorem setMode_fields (s : State) (m : Mode) :
    (s.setMode m).loads = s.loads ∧ (s.setMode m).ports = s.ports ∧ (s.setMode m).sides = s.sides ∧
    (s.setMode m).sense = s.sense ∧ (s.setMode m).meter = s.meter ∧ (s.setMode m).watches = s.watches ∧
    (s.setMode m).ladder = s.ladder ∧ (s.setMode m).hold = s.hold ∧ (s.setMode m).mgmt = s.mgmt ∧
    (s.setMode m).attention = s.attention ∧ (s.setMode m).control = { s.control with mode := m } ∧
    (s.setMode m).choices = s.choices ∧ (s.setMode m).pending = s.pending :=
  ⟨rfl, rfl, rfl, rfl, rfl, rfl, rfl, rfl, rfl, rfl, rfl, rfl, rfl⟩

@[simp] theorem setCensus_fields (s : State) (asked : List LoadNo) :
    (s.setCensus asked).loads = s.loads ∧ (s.setCensus asked).ports = s.ports ∧
    (s.setCensus asked).sides = s.sides ∧ (s.setCensus asked).sense = s.sense ∧
    (s.setCensus asked).meter = s.meter ∧ (s.setCensus asked).watches = s.watches ∧
    (s.setCensus asked).ladder = s.ladder ∧ (s.setCensus asked).hold = s.hold ∧
    (s.setCensus asked).mgmt = s.mgmt ∧ (s.setCensus asked).attention = s.attention ∧
    (s.setCensus asked).control = { s.control with census := some asked } ∧
    (s.setCensus asked).choices = s.choices ∧ (s.setCensus asked).pending = s.pending :=
  ⟨rfl, rfl, rfl, rfl, rfl, rfl, rfl, rfl, rfl, rfl, rfl, rfl, rfl⟩

@[simp] theorem startSettle_fields (s : State) :
    (s.startSettle).loads = s.loads ∧ (s.startSettle).ports = s.ports ∧ (s.startSettle).sides = s.sides ∧
    (s.startSettle).sense = s.sense ∧ (s.startSettle).meter = s.meter ∧ (s.startSettle).watches = s.watches ∧
    (s.startSettle).ladder = s.ladder ∧ (s.startSettle).hold = s.hold ∧ (s.startSettle).mgmt = s.mgmt ∧
    (s.startSettle).attention = s.attention ∧
    (s.startSettle).control = { s.control with settle := some Config.settleMs } ∧
    (s.startSettle).choices = s.choices ∧ (s.startSettle).pending = s.pending :=
  ⟨rfl, rfl, rfl, rfl, rfl, rfl, rfl, rfl, rfl, rfl, rfl, rfl, rfl⟩

@[simp] theorem startRound_fields (s : State) :
    (s.startRound).loads = s.loads ∧ (s.startRound).ports = s.ports ∧ (s.startRound).sides = s.sides ∧
    (s.startRound).meter = s.meter ∧ (s.startRound).watches = s.watches ∧ (s.startRound).ladder = s.ladder ∧
    (s.startRound).hold = s.hold ∧ (s.startRound).mgmt = s.mgmt ∧ (s.startRound).attention = s.attention ∧
    (s.startRound).control = s.control ∧ (s.startRound).choices = s.choices ∧
    (s.startRound).pending = s.pending :=
  ⟨rfl, rfl, rfl, rfl, rfl, rfl, rfl, rfl, rfl, rfl, rfl, rfl⟩

@[simp] theorem oweRound_fields (s : State) :
    (s.oweRound).loads = s.loads ∧ (s.oweRound).ports = s.ports ∧ (s.oweRound).sides = s.sides ∧
    (s.oweRound).sense = { s.sense with roundOwed := true } ∧ (s.oweRound).meter = s.meter ∧
    (s.oweRound).watches = s.watches ∧ (s.oweRound).ladder = s.ladder ∧ (s.oweRound).hold = s.hold ∧
    (s.oweRound).mgmt = s.mgmt ∧ (s.oweRound).attention = s.attention ∧ (s.oweRound).control = s.control ∧
    (s.oweRound).choices = s.choices ∧ (s.oweRound).pending = s.pending :=
  ⟨rfl, rfl, rfl, rfl, rfl, rfl, rfl, rfl, rfl, rfl, rfl, rfl, rfl⟩

@[simp] theorem startStagger_fields (s : State) :
    (s.startStagger).loads = s.loads ∧ (s.startStagger).ports = s.ports ∧ (s.startStagger).sides = s.sides ∧
    (s.startStagger).sense = s.sense ∧ (s.startStagger).meter = s.meter ∧
    (s.startStagger).watches = s.watches ∧
    (s.startStagger).ladder = { s.ladder with seq := .stagger (s.ladder.live.stagger * 500) } ∧
    (s.startStagger).hold = s.hold ∧ (s.startStagger).mgmt = s.mgmt ∧
    (s.startStagger).attention = s.attention ∧ (s.startStagger).control = s.control ∧
    (s.startStagger).choices = s.choices ∧ (s.startStagger).pending = s.pending :=
  ⟨rfl, rfl, rfl, rfl, rfl, rfl, rfl, rfl, rfl, rfl, rfl, rfl, rfl⟩

@[simp] theorem setOwed_fields (s : State) (n : LoadNo) (o : Option Owed) :
    (s.setOwed n o).ports = s.ports ∧ (s.setOwed n o).sides = s.sides ∧ (s.setOwed n o).sense = s.sense ∧
    (s.setOwed n o).meter = s.meter ∧ (s.setOwed n o).watches = s.watches ∧
    (s.setOwed n o).ladder = s.ladder ∧ (s.setOwed n o).hold = s.hold ∧ (s.setOwed n o).mgmt = s.mgmt ∧
    (s.setOwed n o).attention = s.attention ∧ (s.setOwed n o).control = s.control ∧
    (s.setOwed n o).choices = s.choices ∧ (s.setOwed n o).pending = s.pending :=
  ⟨rfl, rfl, rfl, rfl, rfl, rfl, rfl, rfl, rfl, rfl, rfl, rfl⟩

@[simp] theorem oweQuery_fields (s : State) (n : LoadNo) :
    (s.oweQuery n).ports = s.ports ∧ (s.oweQuery n).sides = s.sides ∧ (s.oweQuery n).sense = s.sense ∧
    (s.oweQuery n).meter = s.meter ∧ (s.oweQuery n).watches = s.watches ∧ (s.oweQuery n).ladder = s.ladder ∧
    (s.oweQuery n).hold = s.hold ∧ (s.oweQuery n).mgmt = s.mgmt ∧ (s.oweQuery n).attention = s.attention ∧
    (s.oweQuery n).control = s.control ∧ (s.oweQuery n).choices = s.choices ∧
    (s.oweQuery n).pending = s.pending :=
  ⟨rfl, rfl, rfl, rfl, rfl, rfl, rfl, rfl, rfl, rfl, rfl, rfl⟩

@[simp] theorem setOutput_fields (s : State) (d : Fin 4) (on : Bool) :
    (s.setOutput d on).loads = { s.loads with outputs := s.loads.outputs.set d on } ∧
    (s.setOutput d on).ports = s.ports ∧ (s.setOutput d on).sides = s.sides ∧
    (s.setOutput d on).sense = s.sense ∧ (s.setOutput d on).meter = s.meter ∧
    (s.setOutput d on).watches = s.watches ∧ (s.setOutput d on).ladder = s.ladder ∧
    (s.setOutput d on).hold = s.hold ∧ (s.setOutput d on).mgmt = s.mgmt ∧
    (s.setOutput d on).attention = s.attention ∧ (s.setOutput d on).control = s.control ∧
    (s.setOutput d on).choices = s.choices ∧ (s.setOutput d on).pending = s.pending :=
  ⟨rfl, rfl, rfl, rfl, rfl, rfl, rfl, rfl, rfl, rfl, rfl, rfl, rfl⟩

@[simp] theorem unhold_fields (s : State) (n : LoadNo) :
    (s.unhold n).loads = s.loads ∧ (s.unhold n).ports = s.ports ∧ (s.unhold n).sides = s.sides ∧
    (s.unhold n).sense = s.sense ∧ (s.unhold n).meter = s.meter ∧ (s.unhold n).watches = s.watches ∧
    (s.unhold n).ladder = s.ladder ∧ (s.unhold n).hold = s.hold.filter (·.load != n) ∧
    (s.unhold n).mgmt = s.mgmt ∧ (s.unhold n).attention = s.attention ∧ (s.unhold n).control = s.control ∧
    (s.unhold n).choices = s.choices ∧ (s.unhold n).pending = s.pending :=
  ⟨rfl, rfl, rfl, rfl, rfl, rfl, rfl, rfl, rfl, rfl, rfl, rfl, rfl⟩

@[simp] theorem replaceHeld_fields (s : State) (n : LoadNo) (src ch : Nat) (w : Wish) :
    (s.replaceHeld n src ch w).loads = s.loads ∧ (s.replaceHeld n src ch w).ports = s.ports ∧
    (s.replaceHeld n src ch w).sides = s.sides ∧ (s.replaceHeld n src ch w).sense = s.sense ∧
    (s.replaceHeld n src ch w).meter = s.meter ∧ (s.replaceHeld n src ch w).watches = s.watches ∧
    (s.replaceHeld n src ch w).ladder = s.ladder ∧ (s.replaceHeld n src ch w).mgmt = s.mgmt ∧
    (s.replaceHeld n src ch w).attention = s.attention ∧ (s.replaceHeld n src ch w).control = s.control ∧
    (s.replaceHeld n src ch w).choices = s.choices ∧ (s.replaceHeld n src ch w).pending = s.pending :=
  ⟨rfl, rfl, rfl, rfl, rfl, rfl, rfl, rfl, rfl, rfl, rfl, rfl⟩

@[simp] theorem appendHeld_fields (s : State) (n : LoadNo) (src ch : Nat) (w : Wish) :
    (s.appendHeld n src ch w).loads = s.loads ∧ (s.appendHeld n src ch w).ports = s.ports ∧
    (s.appendHeld n src ch w).sides = s.sides ∧ (s.appendHeld n src ch w).sense = s.sense ∧
    (s.appendHeld n src ch w).meter = s.meter ∧ (s.appendHeld n src ch w).watches = s.watches ∧
    (s.appendHeld n src ch w).ladder = s.ladder ∧ (s.appendHeld n src ch w).mgmt = s.mgmt ∧
    (s.appendHeld n src ch w).attention = s.attention ∧ (s.appendHeld n src ch w).control = s.control ∧
    (s.appendHeld n src ch w).choices = s.choices ∧ (s.appendHeld n src ch w).pending = s.pending :=
  ⟨rfl, rfl, rfl, rfl, rfl, rfl, rfl, rfl, rfl, rfl, rfl, rfl⟩

@[simp] theorem startQuiet_fields (s : State) :
    (s.startQuiet).loads = s.loads ∧ (s.startQuiet).ports = s.ports ∧ (s.startQuiet).sides = s.sides ∧
    (s.startQuiet).sense = s.sense ∧ (s.startQuiet).meter = s.meter ∧ (s.startQuiet).watches = s.watches ∧
    (s.startQuiet).ladder = s.ladder ∧ (s.startQuiet).hold = s.hold ∧ (s.startQuiet).mgmt = s.mgmt ∧
    (s.startQuiet).attention = s.attention ∧
    (s.startQuiet).control = { s.control with quiet := some Config.quietMs } ∧
    (s.startQuiet).choices = s.choices ∧ (s.startQuiet).pending = s.pending :=
  ⟨rfl, rfl, rfl, rfl, rfl, rfl, rfl, rfl, rfl, rfl, rfl, rfl, rfl⟩

@[simp] theorem chosen_fields (s : State) :
    (s.chosen).loads = s.loads ∧ (s.chosen).ports = s.ports ∧ (s.chosen).sides = s.sides ∧
    (s.chosen).sense = s.sense ∧ (s.chosen).meter = s.meter ∧ (s.chosen).watches = s.watches ∧
    (s.chosen).ladder = s.ladder ∧ (s.chosen).hold = s.hold ∧ (s.chosen).mgmt = s.mgmt ∧
    (s.chosen).attention = s.attention ∧ (s.chosen).control = s.control ∧ (s.chosen).choices = s.choices + 1 ∧
    (s.chosen).pending = s.pending :=
  ⟨rfl, rfl, rfl, rfl, rfl, rfl, rfl, rfl, rfl, rfl, rfl, rfl, rfl⟩

@[simp] theorem setStage_fields (s : State) (i : Fin 8) :
    (s.setStage i).loads = s.loads ∧ (s.setStage i).ports = s.ports ∧ (s.setStage i).sides = s.sides ∧
    (s.setStage i).sense = s.sense ∧ (s.setStage i).meter = s.meter ∧ (s.setStage i).watches = s.watches ∧
    (s.setStage i).ladder = { s.ladder with active := i, exitDwell := none } ∧ (s.setStage i).hold = s.hold ∧
    (s.setStage i).mgmt = s.mgmt ∧ (s.setStage i).attention = s.attention ∧
    (s.setStage i).control = s.control ∧ (s.setStage i).choices = s.choices ∧
    (s.setStage i).pending = s.pending :=
  ⟨rfl, rfl, rfl, rfl, rfl, rfl, rfl, rfl, rfl, rfl, rfl, rfl, rfl⟩

@[simp] theorem startExitDwell_fields (s : State) :
    (s.startExitDwell).loads = s.loads ∧ (s.startExitDwell).ports = s.ports ∧
    (s.startExitDwell).sides = s.sides ∧ (s.startExitDwell).sense = s.sense ∧
    (s.startExitDwell).meter = s.meter ∧ (s.startExitDwell).watches = s.watches ∧
    (s.startExitDwell).hold = s.hold ∧ (s.startExitDwell).mgmt = s.mgmt ∧
    (s.startExitDwell).attention = s.attention ∧ (s.startExitDwell).control = s.control ∧
    (s.startExitDwell).choices = s.choices ∧ (s.startExitDwell).pending = s.pending :=
  ⟨rfl, rfl, rfl, rfl, rfl, rfl, rfl, rfl, rfl, rfl, rfl, rfl⟩

@[simp] theorem stopExitDwell_fields (s : State) :
    (s.stopExitDwell).loads = s.loads ∧ (s.stopExitDwell).ports = s.ports ∧
    (s.stopExitDwell).sides = s.sides ∧ (s.stopExitDwell).sense = s.sense ∧
    (s.stopExitDwell).meter = s.meter ∧ (s.stopExitDwell).watches = s.watches ∧
    (s.stopExitDwell).ladder = { s.ladder with exitDwell := none } ∧ (s.stopExitDwell).hold = s.hold ∧
    (s.stopExitDwell).mgmt = s.mgmt ∧ (s.stopExitDwell).attention = s.attention ∧
    (s.stopExitDwell).control = s.control ∧ (s.stopExitDwell).choices = s.choices ∧
    (s.stopExitDwell).pending = s.pending :=
  ⟨rfl, rfl, rfl, rfl, rfl, rfl, rfl, rfl, rfl, rfl, rfl, rfl, rfl⟩

@[simp] theorem boundOverrun_fields (s : State) :
    (s.boundOverrun).loads = s.loads ∧ (s.boundOverrun).ports = s.ports ∧ (s.boundOverrun).sides = s.sides ∧
    (s.boundOverrun).sense = s.sense ∧ (s.boundOverrun).meter = s.meter ∧
    (s.boundOverrun).watches = s.watches ∧ (s.boundOverrun).hold = s.hold ∧ (s.boundOverrun).mgmt = s.mgmt ∧
    (s.boundOverrun).attention = s.attention ∧ (s.boundOverrun).control = s.control ∧
    (s.boundOverrun).choices = s.choices ∧ (s.boundOverrun).pending = s.pending :=
  ⟨rfl, rfl, rfl, rfl, rfl, rfl, rfl, rfl, rfl, rfl, rfl, rfl⟩

@[simp] theorem leaveCensus_fields (s : State) (n : LoadNo) :
    (s.leaveCensus n).loads = s.loads ∧ (s.leaveCensus n).ports = s.ports ∧
    (s.leaveCensus n).sides = s.sides ∧ (s.leaveCensus n).sense = s.sense ∧
    (s.leaveCensus n).meter = s.meter ∧ (s.leaveCensus n).watches = s.watches ∧
    (s.leaveCensus n).ladder = s.ladder ∧ (s.leaveCensus n).hold = s.hold ∧ (s.leaveCensus n).mgmt = s.mgmt ∧
    (s.leaveCensus n).attention = s.attention ∧ (s.leaveCensus n).choices = s.choices ∧
    (s.leaveCensus n).pending = s.pending :=
  ⟨rfl, rfl, rfl, rfl, rfl, rfl, rfl, rfl, rfl, rfl, rfl, rfl⟩

@[simp] theorem stopCensus_fields (s : State) :
    (s.stopCensus).loads = s.loads ∧ (s.stopCensus).ports = s.ports ∧ (s.stopCensus).sides = s.sides ∧
    (s.stopCensus).sense = s.sense ∧ (s.stopCensus).meter = s.meter ∧ (s.stopCensus).watches = s.watches ∧
    (s.stopCensus).ladder = s.ladder ∧ (s.stopCensus).hold = s.hold ∧ (s.stopCensus).mgmt = s.mgmt ∧
    (s.stopCensus).attention = s.attention ∧
    (s.stopCensus).control = { s.control with census := none, phase := none } ∧
    (s.stopCensus).choices = s.choices ∧ (s.stopCensus).pending = s.pending :=
  ⟨rfl, rfl, rfl, rfl, rfl, rfl, rfl, rfl, rfl, rfl, rfl, rfl, rfl⟩

@[simp] theorem setLoadTx_fields (s : State) (f : Option Frame) :
    (s.setLoadTx f).loads = s.loads ∧ (s.setLoadTx f).ports = { s.ports with loadTx := f } ∧
    (s.setLoadTx f).sides = s.sides ∧ (s.setLoadTx f).sense = s.sense ∧ (s.setLoadTx f).meter = s.meter ∧
    (s.setLoadTx f).watches = s.watches ∧ (s.setLoadTx f).ladder = s.ladder ∧ (s.setLoadTx f).hold = s.hold ∧
    (s.setLoadTx f).mgmt = s.mgmt ∧ (s.setLoadTx f).attention = s.attention ∧
    (s.setLoadTx f).control = s.control ∧ (s.setLoadTx f).choices = s.choices ∧
    (s.setLoadTx f).pending = s.pending :=
  ⟨rfl, rfl, rfl, rfl, rfl, rfl, rfl, rfl, rfl, rfl, rfl, rfl, rfl⟩

@[simp] theorem setDraft_fields (s : State) (n : LoadNo) (d : Option LoadConfig) :
    (s.setDraft n d).ports = s.ports ∧ (s.setDraft n d).sides = s.sides ∧ (s.setDraft n d).sense = s.sense ∧
    (s.setDraft n d).meter = s.meter ∧ (s.setDraft n d).watches = s.watches ∧
    (s.setDraft n d).ladder = s.ladder ∧ (s.setDraft n d).hold = s.hold ∧ (s.setDraft n d).mgmt = s.mgmt ∧
    (s.setDraft n d).attention = s.attention ∧ (s.setDraft n d).control = s.control ∧
    (s.setDraft n d).choices = s.choices ∧ (s.setDraft n d).pending = s.pending :=
  ⟨rfl, rfl, rfl, rfl, rfl, rfl, rfl, rfl, rfl, rfl, rfl, rfl⟩

@[simp] theorem installDraft_fields (s : State) (n : LoadNo) (c : LoadConfig) (r : Runtime) :
    (s.installDraft n c r).ports = s.ports ∧ (s.installDraft n c r).sides = s.sides ∧
    (s.installDraft n c r).sense = s.sense ∧ (s.installDraft n c r).meter = s.meter ∧
    (s.installDraft n c r).watches = s.watches ∧ (s.installDraft n c r).ladder = s.ladder ∧
    (s.installDraft n c r).hold = s.hold ∧ (s.installDraft n c r).mgmt = s.mgmt ∧
    (s.installDraft n c r).attention = s.attention ∧ (s.installDraft n c r).control = s.control ∧
    (s.installDraft n c r).choices = s.choices ∧ (s.installDraft n c r).pending = s.pending :=
  ⟨rfl, rfl, rfl, rfl, rfl, rfl, rfl, rfl, rfl, rfl, rfl, rfl⟩

@[simp] theorem setMap_fields (s : State) (ch : Nat) (e : Option LoadNo) :
    (s.setMap ch e).loads = { s.loads with map := s.loads.map.setIfInBounds ch e } ∧
    (s.setMap ch e).ports = s.ports ∧ (s.setMap ch e).sides = s.sides ∧ (s.setMap ch e).sense = s.sense ∧
    (s.setMap ch e).meter = s.meter ∧ (s.setMap ch e).watches = s.watches ∧
    (s.setMap ch e).ladder = s.ladder ∧ (s.setMap ch e).hold = s.hold ∧ (s.setMap ch e).mgmt = s.mgmt ∧
    (s.setMap ch e).attention = s.attention ∧ (s.setMap ch e).control = s.control ∧
    (s.setMap ch e).choices = s.choices ∧ (s.setMap ch e).pending = s.pending :=
  ⟨rfl, rfl, rfl, rfl, rfl, rfl, rfl, rfl, rfl, rfl, rfl, rfl, rfl⟩

@[simp] theorem installLadder_fields (s : State) (l : Ladder) :
    (s.installLadder l).loads = s.loads ∧ (s.installLadder l).ports = s.ports ∧
    (s.installLadder l).sides = s.sides ∧ (s.installLadder l).sense = s.sense ∧
    (s.installLadder l).meter = s.meter ∧ (s.installLadder l).watches = s.watches ∧
    (s.installLadder l).ladder = { s.ladder with live := l, draft := none } ∧
    (s.installLadder l).hold = s.hold ∧ (s.installLadder l).mgmt = s.mgmt ∧
    (s.installLadder l).attention = s.attention ∧ (s.installLadder l).control = s.control ∧
    (s.installLadder l).choices = s.choices ∧ (s.installLadder l).pending = s.pending :=
  ⟨rfl, rfl, rfl, rfl, rfl, rfl, rfl, rfl, rfl, rfl, rfl, rfl, rfl⟩

@[simp] theorem writeStage_fields (s : State) (w : StageWrite) :
    (s.writeStage w).loads = s.loads ∧ (s.writeStage w).ports = s.ports ∧ (s.writeStage w).sides = s.sides ∧
    (s.writeStage w).sense = s.sense ∧ (s.writeStage w).meter = s.meter ∧
    (s.writeStage w).watches = s.watches ∧ (s.writeStage w).hold = s.hold ∧ (s.writeStage w).mgmt = s.mgmt ∧
    (s.writeStage w).attention = s.attention ∧ (s.writeStage w).control = s.control ∧
    (s.writeStage w).choices = s.choices ∧ (s.writeStage w).pending = s.pending :=
  ⟨rfl, rfl, rfl, rfl, rfl, rfl, rfl, rfl, rfl, rfl, rfl, rfl⟩

@[simp] theorem writeWatch_fields (s : State) (w : WatchNo) (d : WatchDef) :
    (s.writeWatch w d).loads = s.loads ∧ (s.writeWatch w d).ports = s.ports ∧
    (s.writeWatch w d).sides = s.sides ∧ (s.writeWatch w d).sense = s.sense ∧
    (s.writeWatch w d).meter = s.meter ∧
    (s.writeWatch w d).watches = s.watches.set w (s.watches[w].write d (s.latest d.source)) ∧
    (s.writeWatch w d).ladder = s.ladder ∧ (s.writeWatch w d).hold = s.hold ∧
    (s.writeWatch w d).mgmt = s.mgmt ∧ (s.writeWatch w d).attention = s.attention ∧
    (s.writeWatch w d).control = s.control ∧ (s.writeWatch w d).choices = s.choices ∧
    (s.writeWatch w d).pending = s.pending :=
  ⟨rfl, rfl, rfl, rfl, rfl, rfl, rfl, rfl, rfl, rfl, rfl, rfl, rfl⟩

@[simp] theorem modifyWatch_fields (s : State) (w : WatchNo) (f : Watch → Watch) :
    (s.modifyWatch w f).loads = s.loads ∧ (s.modifyWatch w f).ports = s.ports ∧
    (s.modifyWatch w f).sides = s.sides ∧ (s.modifyWatch w f).sense = s.sense ∧
    (s.modifyWatch w f).meter = s.meter ∧ (s.modifyWatch w f).watches = s.watches.set w (f s.watches[w]) ∧
    (s.modifyWatch w f).ladder = s.ladder ∧ (s.modifyWatch w f).hold = s.hold ∧
    (s.modifyWatch w f).mgmt = s.mgmt ∧ (s.modifyWatch w f).attention = s.attention ∧
    (s.modifyWatch w f).control = s.control ∧ (s.modifyWatch w f).choices = s.choices ∧
    (s.modifyWatch w f).pending = s.pending :=
  ⟨rfl, rfl, rfl, rfl, rfl, rfl, rfl, rfl, rfl, rfl, rfl, rfl, rfl⟩

@[simp] theorem setSettings_fields (s : State) (st : Settings) :
    (s.setSettings st).loads = s.loads ∧ (s.setSettings st).ports = s.ports ∧
    (s.setSettings st).sides = s.sides ∧ (s.setSettings st).sense = s.sense ∧
    (s.setSettings st).meter = s.meter ∧ (s.setSettings st).watches = s.watches ∧
    (s.setSettings st).ladder = s.ladder ∧ (s.setSettings st).hold = s.hold ∧
    (s.setSettings st).mgmt = { s.mgmt with settings := st } ∧ (s.setSettings st).attention = s.attention ∧
    (s.setSettings st).control = s.control ∧ (s.setSettings st).choices = s.choices ∧
    (s.setSettings st).pending = s.pending :=
  ⟨rfl, rfl, rfl, rfl, rfl, rfl, rfl, rfl, rfl, rfl, rfl, rfl, rfl⟩

@[simp] theorem setCursor_fields (s : State) (c : Option Cursor) :
    (s.setCursor c).loads = s.loads ∧ (s.setCursor c).ports = s.ports ∧ (s.setCursor c).sides = s.sides ∧
    (s.setCursor c).sense = s.sense ∧ (s.setCursor c).meter = s.meter ∧ (s.setCursor c).watches = s.watches ∧
    (s.setCursor c).ladder = s.ladder ∧ (s.setCursor c).hold = s.hold ∧
    (s.setCursor c).mgmt = { s.mgmt with cursor := c } ∧ (s.setCursor c).attention = s.attention ∧
    (s.setCursor c).control = s.control ∧ (s.setCursor c).choices = s.choices ∧
    (s.setCursor c).pending = s.pending :=
  ⟨rfl, rfl, rfl, rfl, rfl, rfl, rfl, rfl, rfl, rfl, rfl, rfl, rfl⟩

@[simp] theorem closeCursor_fields (s : State) :
    (s.closeCursor).loads = s.loads ∧ (s.closeCursor).ports = s.ports ∧ (s.closeCursor).sides = s.sides ∧
    (s.closeCursor).sense = s.sense ∧ (s.closeCursor).meter = s.meter ∧ (s.closeCursor).watches = s.watches ∧
    (s.closeCursor).ladder = s.ladder ∧ (s.closeCursor).hold = s.hold ∧
    (s.closeCursor).mgmt = { s.mgmt with cursor := none } ∧ (s.closeCursor).attention = s.attention ∧
    (s.closeCursor).control = s.control ∧ (s.closeCursor).choices = s.choices ∧
    (s.closeCursor).pending = s.pending :=
  ⟨rfl, rfl, rfl, rfl, rfl, rfl, rfl, rfl, rfl, rfl, rfl, rfl, rfl⟩

@[simp] theorem beginSave_fields (s : State) (node : Nat) :
    (s.beginSave node).loads = s.loads ∧ (s.beginSave node).ports = s.ports ∧
    (s.beginSave node).sides = s.sides ∧ (s.beginSave node).sense = s.sense ∧
    (s.beginSave node).meter = s.meter ∧ (s.beginSave node).watches = s.watches ∧
    (s.beginSave node).ladder = s.ladder ∧ (s.beginSave node).hold = s.hold ∧
    (s.beginSave node).mgmt = { s.mgmt with store := none, save := some { node := node, content := s.content } } ∧
    (s.beginSave node).attention = s.attention ∧ (s.beginSave node).control = s.control ∧
    (s.beginSave node).choices = s.choices ∧ (s.beginSave node).pending = s.pending :=
  ⟨rfl, rfl, rfl, rfl, rfl, rfl, rfl, rfl, rfl, rfl, rfl, rfl, rfl⟩

@[simp] theorem recordReset_fields (s : State) (k : ResetKind) :
    (s.recordReset k).loads = s.loads ∧ (s.recordReset k).ports = s.ports ∧
    (s.recordReset k).sides = s.sides ∧ (s.recordReset k).sense = s.sense ∧
    (s.recordReset k).meter = s.meter ∧ (s.recordReset k).watches = s.watches ∧
    (s.recordReset k).ladder = s.ladder ∧ (s.recordReset k).hold = s.hold ∧ (s.recordReset k).mgmt = s.mgmt ∧
    (s.recordReset k).attention = s.attention ∧
    (s.recordReset k).control = { s.control with lastReset := k } ∧ (s.recordReset k).choices = s.choices ∧
    (s.recordReset k).pending = s.pending :=
  ⟨rfl, rfl, rfl, rfl, rfl, rfl, rfl, rfl, rfl, rfl, rfl, rfl, rfl⟩

@[simp] theorem holdBy_fields (s : State) (supply line : Bool) :
    (s.holdBy supply line).loads = s.loads ∧ (s.holdBy supply line).ports = s.ports ∧
    (s.holdBy supply line).sides = s.sides ∧ (s.holdBy supply line).sense = s.sense ∧
    (s.holdBy supply line).meter = s.meter ∧ (s.holdBy supply line).watches = s.watches ∧
    (s.holdBy supply line).ladder = s.ladder ∧ (s.holdBy supply line).hold = s.hold ∧
    (s.holdBy supply line).mgmt = s.mgmt ∧ (s.holdBy supply line).attention = s.attention ∧
    (s.holdBy supply line).control = { s.control with supplyHold := supply, lineHold := line } ∧
    (s.holdBy supply line).choices = s.choices ∧ (s.holdBy supply line).pending = s.pending :=
  ⟨rfl, rfl, rfl, rfl, rfl, rfl, rfl, rfl, rfl, rfl, rfl, rfl, rfl⟩

@[simp] theorem freeConverter_fields (s : State) :
    (s.freeConverter).loads = s.loads ∧ (s.freeConverter).ports = s.ports ∧
    (s.freeConverter).sides = s.sides ∧ (s.freeConverter).sense = { s.sense with converting := none } ∧
    (s.freeConverter).meter = s.meter ∧ (s.freeConverter).watches = s.watches ∧
    (s.freeConverter).ladder = s.ladder ∧ (s.freeConverter).hold = s.hold ∧ (s.freeConverter).mgmt = s.mgmt ∧
    (s.freeConverter).attention = s.attention ∧ (s.freeConverter).control = s.control ∧
    (s.freeConverter).choices = s.choices ∧ (s.freeConverter).pending = s.pending :=
  ⟨rfl, rfl, rfl, rfl, rfl, rfl, rfl, rfl, rfl, rfl, rfl, rfl, rfl⟩

@[simp] theorem clearSlot_fields (s : State) :
    (s.clearSlot).loads = s.loads ∧ (s.clearSlot).ports = s.ports ∧ (s.clearSlot).sides = s.sides ∧
    (s.clearSlot).sense = { s.sense with slot := none } ∧ (s.clearSlot).meter = s.meter ∧
    (s.clearSlot).watches = s.watches ∧ (s.clearSlot).ladder = s.ladder ∧ (s.clearSlot).hold = s.hold ∧
    (s.clearSlot).mgmt = s.mgmt ∧ (s.clearSlot).attention = s.attention ∧ (s.clearSlot).control = s.control ∧
    (s.clearSlot).choices = s.choices ∧ (s.clearSlot).pending = s.pending :=
  ⟨rfl, rfl, rfl, rfl, rfl, rfl, rfl, rfl, rfl, rfl, rfl, rfl, rfl⟩

@[simp] theorem raiseOver_fields (s : State) :
    (s.raiseOver).loads = s.loads ∧ (s.raiseOver).ports = s.ports ∧ (s.raiseOver).sides = s.sides ∧
    (s.raiseOver).sense = s.sense ∧ (s.raiseOver).meter = s.meter ∧ (s.raiseOver).watches = s.watches ∧
    (s.raiseOver).ladder = { s.ladder with overrun := some (s.ladder.live.overrunDwell * 1000), overHigh := true } ∧
    (s.raiseOver).hold = s.hold ∧ (s.raiseOver).mgmt = s.mgmt ∧ (s.raiseOver).attention = s.attention ∧
    (s.raiseOver).control = s.control ∧ (s.raiseOver).choices = s.choices ∧
    (s.raiseOver).pending = s.pending :=
  ⟨rfl, rfl, rfl, rfl, rfl, rfl, rfl, rfl, rfl, rfl, rfl, rfl, rfl⟩

@[simp] theorem goStale_fields (s : State) :
    (s.goStale).loads = s.loads ∧ (s.goStale).ports = s.ports ∧ (s.goStale).sides = s.sides ∧
    (s.goStale).sense = s.sense ∧ (s.goStale).meter = { s.meter with stale := true, staleTimer := none } ∧
    (s.goStale).watches = s.watches.map Watch.goStale ∧ (s.goStale).ladder = s.ladder ∧
    (s.goStale).hold = s.hold ∧ (s.goStale).mgmt = s.mgmt ∧ (s.goStale).attention = s.attention ∧
    (s.goStale).control = s.control ∧ (s.goStale).choices = s.choices ∧ (s.goStale).pending = s.pending :=
  ⟨rfl, rfl, rfl, rfl, rfl, rfl, rfl, rfl, rfl, rfl, rfl, rfl, rfl⟩

@[simp] theorem meterValues_fields (s : State) (v : MeterValues) :
    (s.meterValues v).loads = s.loads ∧ (s.meterValues v).ports = s.ports ∧
    (s.meterValues v).sides = s.sides ∧ (s.meterValues v).sense = s.sense ∧
    (s.meterValues v).watches = s.watches.map (Watch.takeMeter v) ∧ (s.meterValues v).ladder = s.ladder ∧
    (s.meterValues v).hold = s.hold ∧ (s.meterValues v).mgmt = s.mgmt ∧
    (s.meterValues v).attention = s.attention ∧ (s.meterValues v).control = s.control ∧
    (s.meterValues v).choices = s.choices ∧ (s.meterValues v).pending = s.pending :=
  ⟨rfl, rfl, rfl, rfl, rfl, rfl, rfl, rfl, rfl, rfl, rfl, rfl⟩

end Sys2Proof.Laws
end

