-- ==== Sys2Proof/Laws/Talk.lean ====
section
/-! SUPPORT. What the part's frames and attention causes can change: nothing but the lists of frames and the flags, within their laws. One lemma for each operation that only tells. -/

namespace Sys2Proof.Laws

set_option Elab.async false

open Sys2Proof.Machine

/-- The frames of a port's lists fit (R143, R146). -/
structure PortsFit (p : Ports) : Prop where
  replies : p.replies.length ≤ Config.replyDepth
  panelFifo : p.panelFifo.length ≤ Config.fifoDepth
  loadFifo : p.loadFifo.length ≤ Config.fifoDepth

/-- `t` is `s` but for frames put in lists and causes raised. -/
structure Talk (s t : State) : Prop where
  loads : t.loads = s.loads
  sides : t.sides = s.sides
  sense : t.sense = s.sense
  meter : t.meter = s.meter
  watches : t.watches = s.watches
  ladder : t.ladder = s.ladder
  hold : t.hold = s.hold
  mgmt : t.mgmt = s.mgmt
  control : t.control = s.control
  choices : t.choices = s.choices
  pending : t.pending = s.pending
  panelTx : t.ports.panelTx = s.ports.panelTx
  loadTx : t.ports.loadTx = s.ports.loadTx
  ports : PortsFit s.ports → PortsFit t.ports
  flags : s.FlagsLaw → t.FlagsLaw

theorem Talk.refl (s : State) : Talk s s :=
  ⟨rfl, rfl, rfl, rfl, rfl, rfl, rfl, rfl, rfl, rfl, rfl, rfl, rfl, id, id⟩

theorem Talk.trans {s t u : State} (h : Talk s t) (k : Talk t u) : Talk s u :=
  ⟨k.loads.trans h.loads, k.sides.trans h.sides, k.sense.trans h.sense, k.meter.trans h.meter,
   k.watches.trans h.watches, k.ladder.trans h.ladder, k.hold.trans h.hold, k.mgmt.trans h.mgmt,
   k.control.trans h.control, k.choices.trans h.choices, k.pending.trans h.pending,
   k.panelTx.trans h.panelTx, k.loadTx.trans h.loadTx, k.ports ∘ h.ports, k.flags ∘ h.flags⟩

/-- Changing one cause by a function that keeps its law keeps the law of the flags. -/
theorem flags_modifyCause {s : State} (i : Fin 15) {f : CauseFlags → CauseFlags}
    (hf : ∀ c, (c.inService = true → c.pending = true) → (f c).inService = true → (f c).pending = true)
    (h : s.FlagsLaw) : (s.modifyCause i f).FlagsLaw := by
  intro j
  simp only [modifyCause_fields]
  by_cases hij : i = j
  · subst hij; simpa using hf _ (h i)
  · have : i.val ≠ j.val := fun e => hij (Fin.ext e)
    simpa [Vector.getElem_set_ne _ _ this] using h j

theorem talk_setPending (s : State) (c : Cause) : Talk s (s.setPending c) :=
  ⟨rfl, rfl, rfl, rfl, rfl, rfl, rfl, rfl, rfl, rfl, rfl, rfl, rfl, id,
   flags_modifyCause _ fun _ _ _ => rfl⟩

theorem talk_pushReply {s : State} (f : Frame) (h : s.ports.replies.length < Config.replyDepth) :
    Talk s (s.pushReply f) :=
  ⟨rfl, rfl, rfl, rfl, rfl, rfl, rfl, rfl, rfl, rfl, rfl, rfl, rfl,
   fun p => ⟨by simpa using Nat.succ_le_of_lt h, p.panelFifo, p.loadFifo⟩, id⟩

theorem talk_announce (s before : State) : Talk s (s.announce before) := by
  unfold State.announce
  split
  · split
    · exact talk_pushReply _ ‹_›
    · exact talk_setPending _ _
  · exact Talk.refl s

theorem talk_raise (s : State) (c : Cause) : Talk s (s.raise c) :=
  (talk_setPending s c).trans (talk_announce _ _)

theorem talk_joinReply (s : State) (f : Frame) : Talk s (s.joinReply f) := by
  unfold State.joinReply
  split
  · exact talk_pushReply f ‹_›
  · exact talk_raise s _

theorem talk_joinPanelFifo (s : State) (f : Frame) : Talk s (s.joinPanelFifo f) := by
  unfold State.joinPanelFifo
  split
  · exact ⟨rfl, rfl, rfl, rfl, rfl, rfl, rfl, rfl, rfl, rfl, rfl, rfl, rfl,
      fun p => ⟨p.replies, by simp; omega, p.loadFifo⟩, id⟩
  · exact talk_raise s _

theorem talk_joinLoadFifo (s : State) (f : Frame) : Talk s (s.joinLoadFifo f) := by
  unfold State.joinLoadFifo
  split
  · exact ⟨rfl, rfl, rfl, rfl, rfl, rfl, rfl, rfl, rfl, rfl, rfl, rfl, rfl,
      fun p => ⟨p.replies, p.panelFifo, by simp; omega⟩, id⟩
  · exact talk_raise s _

theorem talk_joinOther (s : State) (line : Line) (f : Frame) : Talk s (s.joinOther line f) := by
  cases line
  · exact talk_joinLoadFifo s f
  · exact talk_joinPanelFifo s f

theorem talk_answerSwitch (s : State) (q ch : Nat) (r : SwitchReply) : Talk s (s.answerSwitch q ch r) :=
  talk_joinReply s _

theorem talk_answerManage (s : State) (dst code : Byte) (a : Answer) : Talk s (s.answerManage dst code a) :=
  talk_joinReply s _

theorem talk_reportDirect (s : State) (n : LoadNo) (before : Runtime) :
    Talk s (s.reportDirect n before) := by
  unfold State.reportDirect
  split
  · split
    · split
      · exact talk_joinReply s _
      · exact Talk.refl s
    · exact Talk.refl s
  · exact Talk.refl s

theorem talk_reportBinding (s : State) (n : LoadNo) : Talk s (s.reportBinding n) := by
  unfold State.reportBinding
  split
  · split
    · exact talk_joinReply s _
    · exact Talk.refl s
  · exact Talk.refl s

theorem talk_enforcedFor (s : State) (swept : List LoadNo) : Talk s (s.enforcedFor swept) := by
  unfold State.enforcedFor
  split
  · exact Talk.refl s
  · exact talk_raise s _

end Sys2Proof.Laws
end

