-- ==== Sys2Proof/Laws/Loads.lean ====
section
/-! SUPPORT. The loads of a state as the laws see them (the state and configuration of each, the loads of the stack and of the queue, the sequencer), what each update makes of them, and how a change of one load keeps the laws of the stack, the restore and the queue. -/

namespace Sys2Proof.Laws

set_option Elab.async false

open Sys2Proof.Machine

/-- The configuration of a live load. -/
def config? (s : State) (n : LoadNo) : Option LoadConfig := (s.live? n).map (·.config)

/-! ### What the updates make of a load -/

theorem live?_setSlot (s : State) (n m : LoadNo) (slot : Slot) :
    (s.setSlot n slot).live? m = if m = n then slot.live else s.live? m := by
  unfold State.live? State.setSlot
  by_cases h : m = n
  · subst h; simp
  · have : n.val ≠ m.val := fun e => h (Fin.ext e.symm)
    simp [h, Vector.getElem_set_ne _ _ this]

theorem live?_modifyLive (s : State) (n m : LoadNo) (f : Live → Live) :
    (s.modifyLive n f).live? m = if m = n then (s.live? n).map f else s.live? m := by
  unfold State.modifyLive; rw [live?_setSlot]

theorem live?_changeRun (s : State) (n m : LoadNo) (f : LoadConfig → Runtime → Runtime) :
    (s.changeRun n f).live? m =
      if m = n then (s.live? n).map fun l => { l with run := f l.config l.run } else s.live? m := by
  unfold State.changeRun; rw [live?_modifyLive]

theorem state?_changeRun (s : State) (n m : LoadNo) (f : LoadConfig → Runtime → Runtime) :
    (s.changeRun n f).state? m =
      if m = n then (s.live? n).map fun l => (f l.config l.run).state else s.state? m := by
  unfold State.state?; rw [live?_changeRun]; split <;> simp [Option.map_map, Function.comp_def]

theorem config?_changeRun (s : State) (n m : LoadNo) (f : LoadConfig → Runtime → Runtime) :
    config? (s.changeRun n f) m = config? s m := by
  unfold config?; rw [live?_changeRun]; split
  · subst_vars; simp [Option.map_map, Function.comp_def]
  · rfl

theorem state?_setOwed (s : State) (n m : LoadNo) (o : Option Owed) :
    (s.setOwed n o).state? m = s.state? m := by
  unfold State.setOwed; rw [state?_changeRun]; split
  · subst_vars; rfl
  · rfl

theorem config?_setOwed (s : State) (n m : LoadNo) (o : Option Owed) :
    config? (s.setOwed n o) m = config? s m := config?_changeRun ..

theorem live?_congr {s t : State} (h : t.loads = s.loads) (n : LoadNo) : t.live? n = s.live? n := by
  unfold State.live?; rw [h]

theorem state?_congr {s t : State} (h : t.loads = s.loads) (n : LoadNo) : t.state? n = s.state? n := by
  unfold State.state?; rw [live?_congr h]

/-! ### The view -/

/-- `t` shows the laws what `s` does: the same loads, lists of loads, sequencer and mode. -/
structure SameView (s t : State) : Prop where
  state : ∀ n, t.state? n = s.state? n
  config : ∀ n, config? t n = config? s n
  stack : t.stackLoads = s.stackLoads
  held : t.heldLoads = s.heldLoads
  seq : t.ladder.seq = s.ladder.seq
  mode : t.control.mode = s.control.mode

theorem SameView.refl (s : State) : SameView s s := ⟨fun _ => rfl, fun _ => rfl, rfl, rfl, rfl, rfl⟩

theorem SameView.trans {s t u : State} (h : SameView s t) (k : SameView t u) : SameView s u :=
  ⟨fun n => (k.state n).trans (h.state n), fun n => (k.config n).trans (h.config n),
   k.stack.trans h.stack, k.held.trans h.held, k.seq.trans h.seq, k.mode.trans h.mode⟩

theorem sameView_of {s t : State} (loads : t.loads = s.loads) (stack : t.ladder.stack = s.ladder.stack)
    (hold : t.hold = s.hold) (seq : t.ladder.seq = s.ladder.seq)
    (mode : t.control.mode = s.control.mode) : SameView s t :=
  ⟨state?_congr loads, fun n => by unfold config?; rw [live?_congr loads],
   by unfold State.stackLoads; rw [stack], by unfold State.heldLoads; rw [hold], seq, mode⟩

theorem Talk.sameView {s t : State} (h : Talk s t) : SameView s t :=
  sameView_of h.loads (by rw [h.ladder]) h.hold (by rw [h.ladder]) (by rw [h.control])

theorem sameView_setOwed (s : State) (n : LoadNo) (o : Option Owed) : SameView s (s.setOwed n o) :=
  ⟨fun m => state?_setOwed s n m o, fun m => config?_setOwed s n m o, rfl, rfl, rfl, rfl⟩

theorem sameView_setOutput (s : State) (d : Fin 4) (on : Bool) : SameView s (s.setOutput d on) :=
  ⟨fun _ => rfl, fun _ => rfl, rfl, rfl, rfl, rfl⟩

theorem sameView_oweQuery (s : State) (n : LoadNo) : SameView s (s.oweQuery n) :=
  ⟨fun m => by
     unfold State.oweQuery; rw [state?_changeRun]; split
     · subst_vars; rfl
     · rfl,
   fun m => config?_changeRun .., rfl, rfl, rfl, rfl⟩

theorem sameView_oweOn (s : State) (n : LoadNo) (level : Option Nat) : SameView s (s.oweOn n level) := by
  have h := sameView_setOwed s n (some (.on level s.loads.decisions))
  unfold State.oweOn
  split
  · exact SameView.refl s
  · exact ⟨h.state, h.config, rfl, rfl, rfl, rfl⟩

theorem sameView_commandOff (s : State) (n : LoadNo) : SameView s (s.commandOff n) := by
  unfold State.commandOff
  split
  · exact sameView_setOwed ..
  · exact sameView_setOutput ..
  · exact SameView.refl s

theorem sameView_commandOn (s : State) (n : LoadNo) (level : Option Nat) :
    SameView s (s.commandOn n level) := by
  unfold State.commandOn
  split
  · exact sameView_oweOn ..
  · exact sameView_setOutput ..
  · exact SameView.refl s

/-- A change of a record that keeps its state shows nothing. -/
theorem sameView_changeRun {s : State} (n : LoadNo) {f : LoadConfig → Runtime → Runtime}
    (hf : ∀ c r, (f c r).state = r.state) : SameView s (s.changeRun n f) :=
  ⟨fun m => by
     rw [state?_changeRun]; split
     · subst_vars; unfold State.state?; simp [hf]
     · rfl,
   fun _ => config?_changeRun .., rfl, rfl, rfl, rfl⟩

/-! ### The laws of the stack, the restore and the queue together -/

/-- The states of a load that stands in the stack (R88). -/
def stackState : LoadState → Bool
  | .shed => true
  | .winding => true
  | .unknown => false
  | .absent => false
  | .off => false
  | .lockout => false
  | .on => false
  | .restoring => false

theorem stackState_iff (st : LoadState) : stackState st = true ↔ st = .shed ∨ st = .winding := by
  cases st <;> simp [stackState]

/-- The three laws. The governed clause of the stack's law is asked of every load but `x`, the waiting
clause of the queue's law of every load but `y`, and the BYPASS clause when `b` says so. -/
structure LoadsLaw (x y : Option LoadNo) (b : Bool) (s : State) : Prop where
  once : s.stackLoads.Nodup
  exact : ∀ n, n ∈ s.stackLoads ↔ (s.state? n).any stackState = true
  governed : ∀ n c, n ∈ s.stackLoads → some n ≠ x → config? s n = some c →
    c.authority = .governed ∧ 1 ≤ c.tier
  bypass : b = true → s.control.mode = .bypass → s.stackLoads = []
  restore : ∀ n, s.state? n = some .restoring → s.ladder.seq = .restoring n
  heldOnce : s.heldLoads.Nodup
  waiting : ∀ n, n ∈ s.heldLoads →
    ∃ st, s.state? n = some st ∧ (some n ≠ y → st ≠ .on ∧ st ≠ .restoring)
  starting : s.control.mode = .starting → s.heldLoads = []

theorem any_stackState (o : Option LoadState) :
    o.any stackState = true ↔ o = some .shed ∨ o = some .winding := by
  cases o <;> simp [stackState_iff]

theorem loadsLaw_iff (s : State) :
    LoadsLaw none none true s ↔ s.StackLaw ∧ s.RestoreLaw ∧ s.QueueLaw := by
  constructor
  · intro h
    refine ⟨⟨h.once, fun n => (h.exact n).trans (any_stackState _), fun n l hn hl => ?_, h.bypass rfl⟩, h.restore,
      ⟨h.heldOnce, fun n hn => ?_, h.starting⟩⟩
    · exact h.governed n l.config hn (by simp) (by simp [config?, hl])
    · obtain ⟨st, hst, hw⟩ := h.waiting n hn
      exact ⟨st, hst, hw (by simp)⟩
  · rintro ⟨hs, hr, hq⟩
    refine ⟨hs.once, fun n => (hs.exact n).trans (any_stackState _).symm, fun n c hn _ hc => ?_,
      fun _ => hs.bypass, hr, hq.once, fun n hn => ?_, hq.starting⟩
    · obtain ⟨l, hl, rfl⟩ : ∃ l, s.live? n = some l ∧ l.config = c := by
        simpa [config?, Option.map_eq_some_iff] using hc
      exact hs.governed n l hn hl
    · obtain ⟨st, hst, hw⟩ := hq.waiting n hn
      exact ⟨st, hst, fun _ => hw⟩

section
variable {x y : Option LoadNo} {b : Bool} {s t : State}

theorem LoadsLaw.congr (v : SameView s t) (h : LoadsLaw x y b s) : LoadsLaw x y b t where
  once := v.stack ▸ h.once
  exact n := by rw [v.stack, v.state]; exact h.exact n
  governed n c := by rw [v.stack, v.config]; exact h.governed n c
  bypass hb := by rw [v.stack, v.mode]; exact h.bypass hb
  restore n := by rw [v.state, v.seq]; exact h.restore n
  heldOnce := v.held ▸ h.heldOnce
  waiting n := by rw [v.held, v.state]; exact h.waiting n
  starting := by rw [v.mode, v.held]; exact h.starting

theorem LoadsLaw.exempt (n : LoadNo) (h : LoadsLaw none y b s) : LoadsLaw (some n) y b s :=
  { h with governed := fun m c hm _ hc => h.governed m c hm (by simp) hc }

theorem LoadsLaw.pardon (n : LoadNo) (h : LoadsLaw x none b s) : LoadsLaw x (some n) b s :=
  { h with
    waiting := fun m hm => by
      obtain ⟨st, hst, hw⟩ := h.waiting m hm
      exact ⟨st, hst, fun _ => hw (by simp)⟩ }

theorem LoadsLaw.noBypass (h : LoadsLaw x y b s) : LoadsLaw x y false s := { h with bypass := by simp }

/-- The pardon ends once the load is not held, or is neither ON nor RESTORING. -/
theorem LoadsLaw.unpardon {n : LoadNo} (h : LoadsLaw x (some n) b s)
    (hn : n ∈ s.heldLoads → ∀ st, s.state? n = some st → st ≠ .on ∧ st ≠ .restoring) :
    LoadsLaw x none b s :=
  { h with
    waiting := fun m hm => by
      obtain ⟨st, hst, hw⟩ := h.waiting m hm
      refine ⟨st, hst, fun _ => ?_⟩
      by_cases hmn : m = n
      · subst hmn; exact hn hm st hst
      · exact hw (by simpa using hmn) }

/-- The exemption ends once the load is not stacked, or is GOVERNED of tier 1 or above. -/
theorem LoadsLaw.unexempt {n : LoadNo} (h : LoadsLaw (some n) y b s)
    (hn : n ∈ s.stackLoads → ∀ c, config? s n = some c → c.authority = .governed ∧ 1 ≤ c.tier) :
    LoadsLaw none y b s :=
  { h with
    governed := fun m c hm _ hc => by
      by_cases hmn : m = n
      · subst hmn; exact hn hm c hc
      · exact h.governed m c hm (by simpa using hmn) hc }

/-- A change of one load's state, with the stack, the queue and the sequencer brought along. -/
theorem LoadsLaw.change {y' : Option LoadNo} (h : LoadsLaw x y b s) (n : LoadNo)
    (state : ∀ m, m ≠ n → t.state? m = s.state? m)
    (config : ∀ m, config? t m = config? s m)
    (mode : t.control.mode = s.control.mode)
    (once : t.stackLoads.Nodup)
    (stack : ∀ m, m ≠ n → (m ∈ t.stackLoads ↔ m ∈ s.stackLoads))
    (here : n ∈ t.stackLoads ↔ (t.state? n).any stackState = true)
    (pushed : n ∈ t.stackLoads → n ∉ s.stackLoads →
      (∀ c, config? s n = some c → c.authority = .governed ∧ 1 ≤ c.tier) ∧
      s.control.mode ≠ .bypass)
    (seq : ∀ m, m ≠ n → s.ladder.seq = .restoring m → t.ladder.seq = .restoring m)
    (seqHere : t.state? n = some .restoring → t.ladder.seq = .restoring n)
    (heldOnce : t.heldLoads.Nodup)
    (held : ∀ m, m ∈ t.heldLoads → m ∈ s.heldLoads)
    (lives : n ∈ t.heldLoads → (s.state? n).isSome = true → (t.state? n).isSome = true)
    (heldHere : n ∈ t.heldLoads → some n ≠ y' → ∀ st, t.state? n = some st → st ≠ .on ∧ st ≠ .restoring)
    (pardoned : ∀ m, m ≠ n → some m ≠ y' → some m ≠ y) :
    LoadsLaw x y' b t where
  once := once
  exact m := by
    by_cases hm : m = n
    · subst hm; exact here
    · rw [stack m hm, state m hm]; exact h.exact m
  governed m c hm hx hc := by
    rw [config m] at hc
    by_cases hmn : m = n
    · subst hmn
      by_cases hs : m ∈ s.stackLoads
      · exact h.governed m c hs hx hc
      · exact (pushed hm hs).1 c hc
    · exact h.governed m c ((stack m hmn).1 hm) hx hc
  bypass hb hmode := by
    rw [mode] at hmode
    have hs := h.bypass hb hmode
    apply List.eq_nil_iff_forall_not_mem.2
    intro m hm
    by_cases hmn : m = n
    · subst hmn
      exact (pushed hm (by rw [hs]; simp)).2 hmode
    · have := (stack m hmn).1 hm
      rw [hs] at this; simp at this
  restore m hm := by
    by_cases hmn : m = n
    · subst hmn; exact seqHere hm
    · exact seq m hmn (h.restore m (by rw [← state m hmn]; exact hm))
  heldOnce := heldOnce
  waiting m hm := by
    obtain ⟨st, hst, hw⟩ := h.waiting m (held m hm)
    by_cases hmn : m = n
    · subst hmn
      obtain ⟨st', hst'⟩ := Option.isSome_iff_exists.1 (lives hm (by simp [hst]))
      exact ⟨st', hst', fun hy => heldHere hm hy st' hst'⟩
    · rw [state m hmn]; exact ⟨st, hst, fun hy => hw (pardoned m hmn hy)⟩
  starting hmode := by
    rw [mode] at hmode
    have hs := h.starting hmode
    apply List.eq_nil_iff_forall_not_mem.2
    intro m hm
    have := held m hm
    rw [hs] at this; simp at this

/-! ### The loads of the lists -/

theorem stackLoads_push (s : State) (e : StackEntry) : (s.push e).stackLoads = e.load :: s.stackLoads := rfl

theorem stackLoads_unstack (s : State) (n : LoadNo) :
    (s.unstack n).stackLoads = s.stackLoads.filter (· != n) := by
  unfold State.stackLoads; simp only [unstack_fields, List.filter_map, Function.comp_def]

theorem heldLoads_unhold (s : State) (n : LoadNo) :
    (s.unhold n).heldLoads = s.heldLoads.filter (· != n) := by
  unfold State.heldLoads; simp only [unhold_fields, List.filter_map, Function.comp_def]

theorem sameView_push {e : StackEntry} (v : SameView s t) : SameView (s.push e) (t.push e) :=
  ⟨v.state, v.config, by rw [stackLoads_push, stackLoads_push, v.stack], v.held, v.seq, v.mode⟩

theorem sameView_unstack {n : LoadNo} (v : SameView s t) : SameView (s.unstack n) (t.unstack n) :=
  ⟨v.state, v.config, by rw [stackLoads_unstack, stackLoads_unstack, v.stack], v.held, v.seq, v.mode⟩

/-! ### The primitive moves -/

/-- A change of a record that keeps the load in the stack, or out of it. -/
theorem LoadsLaw.changeRun {y' : Option LoadNo} (h : LoadsLaw x y b s) (n : LoadNo)
    (f : LoadConfig → Runtime → Runtime)
    (stack : ∀ l, s.live? n = some l → stackState (f l.config l.run).state = stackState l.run.state)
    (seq : ∀ l, s.live? n = some l → (f l.config l.run).state = .restoring → s.ladder.seq = .restoring n)
    (waits : some n ≠ y' → ∀ l, s.live? n = some l → n ∈ s.heldLoads →
      (f l.config l.run).state ≠ .on ∧ (f l.config l.run).state ≠ .restoring)
    (pardoned : ∀ m, m ≠ n → some m ≠ y' → some m ≠ y) :
    LoadsLaw x y' b (s.changeRun n f) := by
  have here : (s.changeRun n f).state? n = (s.live? n).map fun l => (f l.config l.run).state := by
    rw [state?_changeRun, if_pos rfl]
  refine h.change n (fun m hm => by rw [state?_changeRun, if_neg hm]) (fun m => config?_changeRun ..)
    rfl h.once (fun _ _ => Iff.rfl) ?_ (fun a c => absurd a c) (fun _ _ => id) ?_ h.heldOnce (fun _ => id)
    ?_ ?_ pardoned
  · rw [here]
    refine (h.exact n).trans ?_
    unfold State.state?
    cases hl : s.live? n with
    | none => simp
    | some l => simp [stack l hl]
  · rw [here]; intro hr
    obtain ⟨l, hl, hf⟩ := Option.map_eq_some_iff.1 hr
    exact seq l hl hf
  · rw [here]; unfold State.state?; simp
  · intro hm hy st hst
    rw [here] at hst
    obtain ⟨l, hl, hf⟩ := Option.map_eq_some_iff.1 hst
    subst hf
    exact waits hy l hl hm

/-- A load leaves the stack for a state outside it. -/
theorem LoadsLaw.leave {y' : Option LoadNo} (h : LoadsLaw x y b s) (n : LoadNo)
    (f : LoadConfig → Runtime → Runtime)
    (out : ∀ l, s.live? n = some l → stackState (f l.config l.run).state = false)
    (seq : ∀ l, s.live? n = some l → (f l.config l.run).state = .restoring → s.ladder.seq = .restoring n)
    (waits : some n ≠ y' → ∀ l, s.live? n = some l → n ∈ s.heldLoads →
      (f l.config l.run).state ≠ .on ∧ (f l.config l.run).state ≠ .restoring)
    (pardoned : ∀ m, m ≠ n → some m ≠ y' → some m ≠ y) :
    LoadsLaw x y' b ((s.unstack n).changeRun n f) := by
  have here : ((s.unstack n).changeRun n f).state? n = (s.live? n).map fun l => (f l.config l.run).state := by
    rw [state?_changeRun, if_pos rfl]; rfl
  have stk : ((s.unstack n).changeRun n f).stackLoads = s.stackLoads.filter (· != n) := stackLoads_unstack s n
  refine h.change n (fun m hm => by rw [state?_changeRun, if_neg hm]; rfl)
    (fun m => (config?_changeRun ..).trans rfl) rfl (by rw [stk]; exact h.once.filter _)
    (fun m hm => by rw [stk]; simp [hm]) ?_ ?_ (fun _ _ => id) ?_ h.heldOnce (fun _ => id) ?_ ?_ pardoned
  · rw [here, stk]
    cases hl : s.live? n with
    | none => simp
    | some l => simp [out l hl]
  · rw [stk]; simp
  · rw [here]; intro hr
    obtain ⟨l, hl, hf⟩ := Option.map_eq_some_iff.1 hr
    exact seq l hl hf
  · rw [here]; unfold State.state?; simp
  · intro hm hy st hst
    rw [here] at hst
    obtain ⟨l, hl, hf⟩ := Option.map_eq_some_iff.1 hst
    subst hf
    exact waits hy l hl hm

theorem sameView_changeRun_unstack (s : State) (n : LoadNo) (f : LoadConfig → Runtime → Runtime) :
    SameView ((s.unstack n).changeRun n f) ((s.changeRun n f).unstack n) :=
  ⟨fun m => by rw [state?_changeRun]; exact state?_changeRun s n m f, fun m => rfl, rfl, rfl, rfl, rfl⟩

/-- A load outside the stack joins it on top. -/
theorem LoadsLaw.join (h : LoadsLaw x y b s) (n : LoadNo) (e : StackEntry) (he : e.load = n)
    (f : LoadConfig → Runtime → Runtime)
    (inside : ∀ l, s.live? n = some l →
      stackState (f l.config l.run).state = true ∧ stackState l.run.state = false)
    (lives : (s.live? n).isSome = true)
    (governed : ∀ c, config? s n = some c → c.authority = .governed ∧ 1 ≤ c.tier)
    (mode : s.control.mode ≠ .bypass) :
    LoadsLaw x y b ((s.changeRun n f).push e) := by
  obtain ⟨l, hl⟩ := Option.isSome_iff_exists.1 lives
  have here : ((s.changeRun n f).push e).state? n = some (f l.config l.run).state := by
    show (s.changeRun n f).state? n = _
    rw [state?_changeRun, if_pos rfl, hl]; rfl
  have stk : ((s.changeRun n f).push e).stackLoads = n :: s.stackLoads := by rw [stackLoads_push, he]; rfl
  have hn : n ∉ s.stackLoads := by
    rw [h.exact n]; simp [State.state?, hl, (inside l hl).2]
  have hi := (inside l hl).1
  refine h.change n (fun m hm => by
      show (s.changeRun n f).state? m = _
      rw [state?_changeRun, if_neg hm])
    (fun m => config?_changeRun s n m f) rfl (by rw [stk]; exact List.nodup_cons.2 ⟨hn, h.once⟩)
    (fun m hm => by rw [stk]; simp [hm]) ?_ (fun _ _ => ⟨governed, mode⟩) (fun _ _ => id) ?_ h.heldOnce (fun _ => id)
    ?_ ?_ (fun _ _ => id)
  · rw [here, stk]; simp [hi]
  · rw [here]; intro hr; injection hr with hr; rw [hr] at hi; simp [stackState] at hi
  · rw [here]; simp
  · intro _ _ st hst
    rw [here] at hst; injection hst with hst; subst hst
    constructor <;> · intro e; rw [e] at hi; simp [stackState] at hi

/-- Removing a held request keeps the laws; of a pardoned load it ends the pardon. -/
theorem LoadsLaw.unhold (h : LoadsLaw x y b s) (n : LoadNo) : LoadsLaw x y b (s.unhold n) := by
  have hl := heldLoads_unhold s n
  exact { h with
    heldOnce := by rw [hl]; exact h.heldOnce.filter _
    waiting := fun m hm => h.waiting m (List.mem_filter.1 (hl ▸ hm) |>.1)
    starting := fun hm => by rw [hl, h.starting hm]; rfl }

theorem LoadsLaw.unholdPardoned {n : LoadNo} (h : LoadsLaw x (some n) b s) :
    LoadsLaw x none b (s.unhold n) :=
  (h.unhold n).unpardon fun hm => by rw [heldLoads_unhold] at hm; simp at hm

/-- The sequencer starts its stagger when the load it restores is RESTORING no more. -/
theorem LoadsLaw.restoreEnded (h : LoadsLaw x y b s) (n : LoadNo) (hn : s.state? n ≠ some .restoring) :
    LoadsLaw x y b (s.restoreEnded n) := by
  unfold State.restoreEnded
  split
  · rename_i hs
    exact { h with
      restore := fun m hm => by
        have := h.restore m hm
        rw [hs] at this; injection this with this; subst this
        exact absurd hm hn }
  · exact h

end

end Sys2Proof.Laws
end

