-- ==== Sys2Proof/Laws/Acts.lean ====
section
/-! SUPPORT. What every decision of the part leaves alone: the configurations and tables, the mode and phase and the queue of commands stay, and the bounded lists and the flags stay within their laws. One lemma for each shared operation. -/

namespace Sys2Proof.Laws

set_option Elab.async false

open Sys2Proof.Machine

/-- The latest reading of each input, and LAST. -/
def readingsOf (u : SenseUnit) :
    Option Nat × Option Nat × Option Nat × Option Nat × Bool :=
  (u.leisure, u.chassis, u.aux, u.supply, u.last)

/-- `t` has the configurations, tables, draft ladder, mode, phase, readings, meter values, watches, reset cause record and waiting commands of `s`, and keeps the laws of its lists and flags. -/
structure Acts (s t : State) : Prop where
  mgmt : t.mgmt = s.mgmt
  live : t.ladder.live = s.ladder.live
  mode : t.control.mode = s.control.mode
  phase : t.control.phase = s.control.phase
  pending : t.pending = s.pending
  ports : PortsFit s.ports → PortsFit t.ports
  flags : s.FlagsLaw → t.FlagsLaw
  hold : s.hold.length ≤ Config.holdDepth → t.hold.length ≤ Config.holdDepth
  config : ∀ n, config? t n = config? s n
  meter : t.meter = s.meter := by rfl
  watches : t.watches = s.watches := by rfl
  readings : readingsOf t.sense = readingsOf s.sense := by rfl
  reset : t.control.lastReset = s.control.lastReset := by rfl
  valid : t.control.storeValid = s.control.storeValid := by rfl
  draft : t.ladder.draft = s.ladder.draft := by rfl

theorem Acts.refl (s : State) : Acts s s := ⟨rfl, rfl, rfl, rfl, rfl, id, id, id, fun _ => rfl, rfl, rfl, rfl, rfl, rfl, rfl⟩

theorem Acts.trans {s t u : State} (h : Acts s t) (k : Acts t u) : Acts s u :=
  ⟨k.mgmt.trans h.mgmt, k.live.trans h.live, k.mode.trans h.mode, k.phase.trans h.phase,
   k.pending.trans h.pending, k.ports ∘ h.ports, k.flags ∘ h.flags, k.hold ∘ h.hold,
   fun n => (k.config n).trans (h.config n), k.meter.trans h.meter, k.watches.trans h.watches,
   k.readings.trans h.readings, k.reset.trans h.reset, k.valid.trans h.valid,
   k.draft.trans h.draft⟩

theorem Talk.acts {s t : State} (h : Talk s t) : Acts s t :=
  ⟨h.mgmt, by rw [h.ladder], by rw [h.control], by rw [h.control], h.pending, h.ports, h.flags,
   by rw [h.hold]; exact id,
   h.sameView.config, h.meter, h.watches, by rw [h.sense], by rw [h.control], by rw [h.control],
   by rw [h.ladder]⟩

theorem acts_foldl {α : Type} {f : State → α → State} (hf : ∀ s a, Acts s (f s a)) (l : List α) (s : State) :
    Acts s (l.foldl f s) := by
  induction l generalizing s with
  | nil => exact Acts.refl s
  | cons a l ih => exact (hf s a).trans (ih _)

theorem acts_either {f g : State → State} (hf : ∀ s, Acts s (f s)) (hg : ∀ s, Acts s (g s)) (s : State) :
    Acts s (s.eitherOrder f g) := by
  have hc : Acts s s.chosen := ⟨rfl, rfl, rfl, rfl, rfl, id, id, id, fun _ => rfl, rfl, rfl, rfl, rfl, rfl, rfl⟩
  unfold State.eitherOrder
  split
  · exact hc.trans ((hf _).trans (hg _))
  · exact hc.trans ((hg _).trans (hf _))

/-! ### Records, stack and queue -/

theorem acts_changeRun (s : State) (n : LoadNo) (f : LoadConfig → Runtime → Runtime) :
    Acts s (s.changeRun n f) :=
  ⟨rfl, rfl, rfl, rfl, rfl, id, id, id, fun _ => config?_changeRun .., rfl, rfl, rfl, rfl, rfl, rfl⟩

theorem acts_push (s : State) (e : StackEntry) : Acts s (s.push e) := ⟨rfl, rfl, rfl, rfl, rfl, id, id, id, fun _ => rfl, rfl, rfl, rfl, rfl, rfl, rfl⟩

theorem acts_unstack (s : State) (n : LoadNo) : Acts s (s.unstack n) := ⟨rfl, rfl, rfl, rfl, rfl, id, id, id, fun _ => rfl, rfl, rfl, rfl, rfl, rfl, rfl⟩

theorem acts_modifyEntry (s : State) (n : LoadNo) (f : StackEntry → StackEntry) : Acts s (s.modifyEntry n f) :=
  ⟨rfl, rfl, rfl, rfl, rfl, id, id, id, fun _ => rfl, rfl, rfl, rfl, rfl, rfl, rfl⟩

theorem acts_liftEntry (s : State) (n : LoadNo) : Acts s (s.liftEntry n) := by
  unfold State.liftEntry
  split
  · exact ⟨rfl, rfl, rfl, rfl, rfl, id, id, id, fun _ => rfl, rfl, rfl, rfl, rfl, rfl, rfl⟩
  · exact Acts.refl s

theorem acts_setSeq (s : State) (q : Sequencer) : Acts s (s.setSeq q) := ⟨rfl, rfl, rfl, rfl, rfl, id, id, id, fun _ => rfl, rfl, rfl, rfl, rfl, rfl, rfl⟩

theorem acts_restoreEnded (s : State) (n : LoadNo) : Acts s (s.restoreEnded n) := by
  unfold State.restoreEnded
  split
  · exact ⟨rfl, rfl, rfl, rfl, rfl, id, id, id, fun _ => rfl, rfl, rfl, rfl, rfl, rfl, rfl⟩
  · exact Acts.refl s

theorem acts_setOwed (s : State) (n : LoadNo) (o : Option Owed) : Acts s (s.setOwed n o) := acts_changeRun ..

theorem acts_oweQuery (s : State) (n : LoadNo) : Acts s (s.oweQuery n) := acts_changeRun ..

theorem acts_oweOn (s : State) (n : LoadNo) (level : Option Nat) : Acts s (s.oweOn n level) := by
  unfold State.oweOn
  split
  · exact Acts.refl s
  · exact ⟨rfl, rfl, rfl, rfl, rfl, id, id, id, fun _ => config?_setOwed s n _ _, rfl, rfl, rfl, rfl, rfl, rfl⟩

theorem acts_setOutput (s : State) (d : Fin 4) (on : Bool) : Acts s (s.setOutput d on) :=
  ⟨rfl, rfl, rfl, rfl, rfl, id, id, id, fun _ => rfl, rfl, rfl, rfl, rfl, rfl, rfl⟩

theorem acts_commandOff (s : State) (n : LoadNo) : Acts s (s.commandOff n) := by
  unfold State.commandOff
  split
  · exact acts_setOwed ..
  · exact acts_setOutput ..
  · exact Acts.refl s

theorem acts_commandOn (s : State) (n : LoadNo) (level : Option Nat) : Acts s (s.commandOn n level) := by
  unfold State.commandOn
  split
  · exact acts_oweOn ..
  · exact acts_setOutput ..
  · exact Acts.refl s

theorem acts_unhold (s : State) (n : LoadNo) : Acts s (s.unhold n) :=
  ⟨rfl, rfl, rfl, rfl, rfl, id, id, fun h => Nat.le_trans (List.length_filter_le _ _) h, fun _ => rfl, rfl, rfl, rfl, rfl, rfl, rfl⟩

theorem acts_decideHeld (s : State) (n : LoadNo) (r : SwitchReply) : Acts s (s.decideHeld n r) := by
  unfold State.decideHeld
  split
  · exact (acts_unhold s n).trans (talk_answerSwitch ..).acts
  · exact Acts.refl s

theorem acts_withdrawHeld (s : State) (p : Held → Bool) (r : WithdrawReason) : Acts s (s.withdrawHeld p r) :=
  acts_foldl (fun s _ => acts_decideHeld s _ _) _ s

/-! ### The converter, doze and the reset hold -/

theorem acts_converterNext (s : State) : Acts s s.converterNext := by
  unfold State.converterNext
  split
  · exact Acts.refl s
  · split
    · exact ⟨rfl, rfl, rfl, rfl, rfl, id, id, id, fun _ => rfl, rfl, rfl, rfl, rfl, rfl, rfl⟩
    · split
      · exact ⟨rfl, rfl, rfl, rfl, rfl, id, id, id, fun _ => rfl, rfl, rfl, rfl, rfl, rfl, rfl⟩
      · exact Acts.refl s

theorem acts_beginRound (s : State) : Acts s s.beginRound :=
  Acts.trans (t := s.startRound) ⟨rfl, rfl, rfl, rfl, rfl, id, id, id, fun _ => rfl, rfl, rfl, rfl, rfl, rfl, rfl⟩ (acts_converterNext _)

theorem acts_roundDue (s : State) : Acts s s.roundDue := by
  unfold State.roundDue
  split
  · exact acts_beginRound s
  · exact ⟨rfl, rfl, rfl, rfl, rfl, id, id, id, fun _ => rfl, rfl, rfl, rfl, rfl, rfl, rfl⟩

theorem acts_endDoze (s : State) : Acts s s.endDoze := by
  unfold State.endDoze
  split
  · exact Acts.trans (t := s.wake) ⟨rfl, rfl, rfl, rfl, rfl, id, id, id, fun _ => rfl, rfl, rfl, rfl, rfl, rfl, rfl⟩ (acts_roundDue _)
  · exact Acts.refl s

theorem acts_startQuiet (s : State) : Acts s s.startQuiet := ⟨rfl, rfl, rfl, rfl, rfl, id, id, id, fun _ => rfl, rfl, rfl, rfl, rfl, rfl, rfl⟩

theorem acts_lineActivity (s : State) : Acts s s.lineActivity := by
  unfold State.lineActivity
  split
  · exact (acts_endDoze s).trans (acts_startQuiet _)
  · exact Acts.refl s

theorem acts_learn (s : State) (line : Line) (src : Nat) : Acts s (s.learn line src) := by
  have h : Acts s (s.setSide src (Line.side line)) := ⟨rfl, rfl, rfl, rfl, rfl, id, id, id, fun _ => rfl, rfl, rfl, rfl, rfl, rfl, rfl⟩
  unfold State.learn
  split
  · exact h
  · exact h.trans (talk_raise _ _).acts

/-! ### Restoration -/

theorem acts_relevel (s : State) (n : LoadNo) (level : Option Nat) : Acts s (s.relevel n level) := by
  unfold State.relevel
  split
  · exact ((acts_changeRun s n _).trans (acts_commandOn _ n level)).trans (talk_reportDirect ..).acts
  · exact Acts.refl s

theorem acts_takeHeldLevel (s : State) (n : LoadNo) (c : LoadConfig) (w : Wish) :
    Acts s (s.takeHeldLevel n c w) := by
  unfold State.takeHeldLevel
  split
  · exact Acts.refl s
  · split
    · exact acts_relevel ..
    · exact Acts.refl s

theorem acts_grantByRestore (s : State) (n : LoadNo) : Acts s (s.grantByRestore n) := by
  unfold State.grantByRestore
  split
  · exact (acts_decideHeld ..).trans (acts_takeHeldLevel ..)
  · exact Acts.refl s

theorem acts_restore (s : State) (e : StackEntry) : Acts s (s.restore e) := by
  unfold State.restore
  split
  · exact Acts.refl s
  · dsimp only
    split
    · refine Acts.trans ?_ (acts_grantByRestore _ _)
      exact (((acts_unstack s e.load).trans (acts_changeRun _ _ _)).trans (acts_oweOn _ _ _)).trans
        (acts_setSeq _ _)
    · refine Acts.trans ?_ (acts_grantByRestore _ _)
      refine Acts.trans ?_ (talk_reportDirect ..).acts
      exact (((acts_unstack s e.load).trans (acts_changeRun _ _ _)).trans (acts_setOutput _ _ _)).trans
        (acts_setSeq _ _)

theorem acts_scan (s : State) : Acts s s.scan := by
  unfold State.scan
  split
  · exact acts_restore ..
  · exact Acts.refl s

theorem acts_scanEvent (s : State) : Acts s s.scanEvent := by
  unfold State.scanEvent
  split
  · exact acts_scan s
  · exact Acts.refl s

/-! ### Admission -/

theorem acts_directOn (s : State) (n : LoadNo) (d : Fin 4) (w : Wish) : Acts s (s.directOn n d w) := by
  unfold State.directOn
  split
  · exact (((acts_changeRun s n _).trans (acts_unstack _ n)).trans (acts_setOutput _ d true)).trans
      (talk_reportDirect ..).acts
  · exact Acts.refl s

theorem acts_forwardPass (s : State) (n : LoadNo) (w : Wish) : Acts s (s.forwardPass n w) := by
  unfold State.forwardPass
  split
  · exact (talk_joinLoadFifo ..).acts
  · exact acts_directOn ..
  · exact Acts.refl s

theorem acts_switchOn (s : State) (n : LoadNo) (w : Wish) : Acts s (s.switchOn n w) := by
  unfold State.switchOn
  split
  · exact (((acts_unstack s n).trans (acts_changeRun _ n _)).trans (acts_commandOn _ n _)).trans
      (talk_reportDirect ..).acts
  · exact Acts.refl s

theorem acts_forwardToOn (s : State) (n : LoadNo) (w : Wish) : Acts s (s.forwardToOn n w) := by
  unfold State.forwardToOn
  split
  · exact acts_relevel ..
  · exact Acts.refl s

theorem acts_replayEntry (s : State) (h : Held) : Acts s (s.replayEntry h) := by
  unfold State.replayEntry
  split
  · exact Acts.refl s
  · split
    · exact ((acts_unhold ..).trans (talk_answerSwitch ..).acts).trans (acts_forwardPass ..)
    · exact acts_decideHeld ..
    · exact acts_decideHeld ..
    · exact acts_decideHeld ..
    · exact ((acts_unhold ..).trans (acts_switchOn ..)).trans (talk_answerSwitch ..).acts
    all_goals exact Acts.refl s

theorem acts_replay (s : State) : Acts s s.replay := acts_foldl acts_replayEntry _ s

theorem acts_replayEvent (s : State) : Acts s s.replayEvent := by
  unfold State.replayEvent
  split
  · exact acts_replay s
  · exact Acts.refl s

theorem acts_blocksTake (s : State) (scan replay : Bool) : Acts s (s.blocksTake scan replay) := by
  unfold State.blocksTake
  split
  · exact acts_either acts_scanEvent acts_replayEvent s
  · exact acts_scanEvent s
  · exact acts_replayEvent s
  · exact Acts.refl s

theorem acts_drawFell (s : State) : Acts s s.drawFell := acts_blocksTake s true true

theorem acts_reportDraw (s before : State) : Acts s (s.reportDraw before) := by
  unfold State.reportDraw
  split
  · exact acts_drawFell s
  · exact Acts.refl s

theorem acts_reportFalls {f : State → State} (hf : ∀ s, Acts s (f s)) (s before : State) :
    Acts s (s.reportFalls before f) := acts_foldl (fun t _ => hf t) _ s

theorem acts_reportLockout (s : State) (n : LoadNo) : Acts s (s.reportLockout n) := acts_blocksTake ..

theorem acts_replaceHeld (s : State) (n : LoadNo) (src ch : Nat) (w : Wish) :
    Acts s (s.replaceHeld n src ch w) :=
  ⟨rfl, rfl, rfl, rfl, rfl, id, id, fun h => by unfold State.replaceHeld; simpa using h, fun _ => rfl, rfl, rfl, rfl, rfl, rfl, rfl⟩

theorem acts_appendHeld {s : State} (n : LoadNo) (src ch : Nat) (w : Wish)
    (h : s.hold.length < Config.holdDepth) : Acts s (s.appendHeld n src ch w) :=
  ⟨rfl, rfl, rfl, rfl, rfl, id, id, fun _ => by unfold State.appendHeld; simpa using Nat.succ_le_of_lt h, fun _ => rfl, rfl, rfl, rfl, rfl, rfl, rfl⟩

theorem acts_holdOrRefuse (s : State) (n : LoadNo) (l : Live) (src ch : Nat) (w : Wish) (r : RefuseReason) :
    Acts s (s.holdOrRefuse n l src ch w r) := by
  unfold State.holdOrRefuse
  split
  · split
    · exact ((acts_replaceHeld ..).trans (talk_answerSwitch ..).acts).trans (talk_answerSwitch ..).acts
    · split
      · exact (acts_appendHeld n src ch w ‹_›).trans (talk_answerSwitch ..).acts
      · exact ((talk_answerSwitch ..).trans (talk_raise ..)).acts
  · exact (talk_answerSwitch ..).acts

theorem acts_requestRunning (s : State) (n : LoadNo) (l : Live) (src ch : Nat) (w : Wish) :
    Acts s (s.requestRunning n l src ch w) := by
  unfold State.requestRunning
  split
  · exact acts_forwardToOn ..
  · split
    · exact (talk_answerSwitch ..).acts
    · split
      · exact acts_relevel ..
      · exact (talk_answerSwitch ..).acts

theorem acts_decideRequest (s : State) (n : LoadNo) (l : Live) (src ch : Nat) (w : Wish) :
    Acts s (s.decideRequest n l src ch w) := by
  unfold State.decideRequest
  split
  · exact (acts_forwardPass ..).trans (acts_decideHeld ..)
  · exact (talk_answerSwitch ..).acts
  · exact (talk_answerSwitch ..).acts
  · exact (talk_answerSwitch ..).acts
  · exact acts_requestRunning ..
  · exact acts_holdOrRefuse ..
  · exact (talk_answerSwitch ..).acts
  · exact acts_holdOrRefuse ..
  · exact acts_holdOrRefuse ..
  · exact acts_holdOrRefuse ..
  · exact (acts_switchOn ..).trans (acts_decideHeld ..)

theorem acts_takeRequest (s : State) (src ch : Nat) {act : LoadNo → Live → State}
    (h : ∀ n l, Acts s (act n l)) : Acts s (s.takeRequest src ch act) := by
  unfold State.takeRequest
  split
  · exact (talk_answerSwitch ..).acts
  · split
    · exact (talk_answerSwitch ..).acts
    · exact h ..

theorem acts_leaveStack (s : State) (n : LoadNo) : Acts s (s.leaveStack n) :=
  (acts_unstack s n).trans (acts_changeRun _ n _)

theorem acts_forwardOff (s : State) (n : LoadNo) (l : Live) (src ch : Nat) :
    Acts s (s.forwardOff n l src ch) := by
  unfold State.forwardOff
  split
  · exact (acts_changeRun ..).trans (talk_answerSwitch ..).acts
  · exact (acts_changeRun ..).trans (acts_commandOff ..)
  · exact (acts_leaveStack ..).trans (acts_commandOff ..)
  · exact (acts_changeRun ..).trans (acts_commandOff ..)
  all_goals exact acts_commandOff ..

theorem acts_decideOff (s : State) (n : LoadNo) (l : Live) (src ch : Nat) : Acts s (s.decideOff n l src ch) := by
  unfold State.decideOff
  dsimp only
  split
  · exact (acts_decideHeld ..).trans (talk_joinLoadFifo ..).acts
  · exact (((acts_decideHeld ..).trans (acts_forwardOff ..)).trans (talk_reportDirect ..).acts).trans
      (acts_reportDraw ..)

/-! ### The Shed Ladder -/

theorem acts_dropWithdrawn (s : State) (n : LoadNo) : Acts s (s.dropWithdrawn n) :=
  (acts_changeRun ..).trans (acts_commandOff ..)

theorem acts_shedRecord (s : State) (n : LoadNo) (l : Live) (cause : ShedCause) :
    Acts s (s.shedRecord n l cause) := by
  unfold State.shedRecord
  split
  · exact acts_dropWithdrawn ..
  · split
    · exact ((acts_changeRun ..).trans (acts_setOwed ..)).trans (acts_push ..)
    · split
      · exact ((acts_changeRun ..).trans (acts_commandOff ..)).trans (acts_push ..)
      · exact (acts_changeRun ..).trans (acts_commandOff ..)

theorem acts_shedOne (s : State) (n : LoadNo) (cause : ShedCause) : Acts s (s.shedOne n cause) := by
  unfold State.shedOne
  split
  · exact Acts.refl s
  · split
    · exact ((acts_shedRecord ..).trans (acts_restoreEnded ..)).trans (talk_reportDirect ..).acts
    · exact Acts.refl s

theorem acts_shed (s : State) (cause : ShedCause) (n : LoadNo) : Acts s (s.shed cause n) :=
  (acts_shedOne ..).trans (acts_reportDraw ..)

theorem acts_stageSheds (s : State) : Acts s s.stageSheds := acts_foldl (fun s _ => acts_shed s _ _) _ s

theorem acts_gaspRecord (s : State) (n : LoadNo) (l : Live) : Acts s (s.gaspRecord n l) := by
  unfold State.gaspRecord
  split
  · exact acts_dropWithdrawn ..
  · split
    · exact ((acts_changeRun ..).trans (acts_commandOff ..)).trans (acts_liftEntry ..)
    · exact ((acts_changeRun ..).trans (acts_commandOff ..)).trans (acts_push ..)

theorem acts_gaspOne (s : State) (n : LoadNo) : Acts s (s.gaspOne n) := by
  unfold State.gaspOne
  split
  · exact Acts.refl s
  · split
    · exact ((acts_gaspRecord ..).trans (acts_restoreEnded ..)).trans (talk_reportDirect ..).acts
    · exact Acts.refl s

theorem acts_gaspCuts (s : State) : Acts s s.gaspCuts := acts_foldl acts_gaspOne _ s

theorem acts_lastGasp (s : State) : Acts s s.lastGasp := by
  unfold State.lastGasp
  split
  · exact (acts_gaspCuts s).trans (talk_raise ..).acts
  · exact (talk_raise ..).acts

theorem acts_judgeOverrun (s : State) : Acts s s.judgeOverrun := by
  unfold State.judgeOverrun
  split
  · split <;> exact ⟨rfl, rfl, rfl, rfl, rfl, id, id, id, fun _ => rfl, rfl, rfl, rfl, rfl, rfl, rfl⟩
  · exact ⟨rfl, rfl, rfl, rfl, rfl, id, id, id, fun _ => rfl, rfl, rfl, rfl, rfl, rfl, rfl⟩

theorem acts_budgetShed (s : State) : Acts s s.budgetShed := by
  unfold State.budgetShed
  split
  · split
    · exact acts_shed ..
    · exact (talk_raise ..).acts
  · exact Acts.refl s

theorem acts_startExitDwell (s : State) : Acts s s.startExitDwell := ⟨rfl, rfl, rfl, rfl, rfl, id, id, id, fun _ => rfl, rfl, rfl, rfl, rfl, rfl, rfl⟩

theorem acts_stopExitDwell (s : State) : Acts s s.stopExitDwell := ⟨rfl, rfl, rfl, rfl, rfl, id, id, id, fun _ => rfl, rfl, rfl, rfl, rfl, rfl, rfl⟩

theorem acts_judgeNewExit (s : State) : Acts s s.judgeNewExit := by
  unfold State.judgeNewExit
  split
  · exact acts_startExitDwell s
  · exact Acts.refl s

theorem acts_setStage (s : State) (i : Fin 8) : Acts s (s.setStage i) := ⟨rfl, rfl, rfl, rfl, rfl, id, id, id, fun _ => rfl, rfl, rfl, rfl, rfl, rfl, rfl⟩

theorem acts_escalate (s : State) (i : Fin 8) : Acts s (s.escalate i) :=
  (((((acts_setStage s i).trans (talk_raise ..).acts).trans (acts_stageSheds _)).trans
    (acts_judgeOverrun _)).trans (acts_judgeNewExit _)).trans (acts_blocksTake ..)

theorem acts_leaveStage (s : State) : Acts s s.leaveStage :=
  ((((acts_setStage s _).trans (talk_raise ..).acts).trans (acts_judgeOverrun _)).trans
    (acts_judgeNewExit _)).trans (acts_blocksTake ..)

theorem acts_judgeExit (s : State) (c : Change) : Acts s (s.judgeExit c) := by
  unfold State.judgeExit
  split
  · split
    · exact acts_leaveStage s
    · exact acts_startExitDwell s
  · exact acts_stopExitDwell s

theorem acts_evaluate (s : State) (c : Change) : Acts s (s.evaluate c) := by
  unfold State.evaluate
  split
  · exact acts_judgeExit ..
  · exact acts_escalate ..

theorem acts_exitExpired (s : State) : Acts s s.exitExpired := by
  unfold State.exitExpired
  dsimp only
  split
  · exact (acts_stopExitDwell s).trans (acts_leaveStage _)
  · exact (acts_stopExitDwell s).trans (acts_escalate ..)

theorem acts_changeEndsDoze (s : State) : Acts s s.changeEndsDoze := by
  unfold State.changeEndsDoze
  split
  · exact (acts_endDoze s).trans (acts_startQuiet _)
  · exact Acts.refl s

theorem acts_evaluateChange (s : State) (c : Change) : Acts s (s.evaluateChange c) := by
  unfold State.evaluateChange
  split
  · exact (acts_evaluate ..).trans (acts_judgeOverrun _)
  · exact acts_evaluate ..

theorem acts_takeOverFall (s before : State) : Acts s (s.takeOverFall before) := by
  unfold State.takeOverFall
  split
  · dsimp only
    split
    · exact (acts_changeEndsDoze s).trans (acts_evaluate ..)
    · exact (acts_changeEndsDoze s).trans
        (acts_either (fun s => acts_evaluate s overFall) acts_scanEvent _)
  · exact Acts.refl s

theorem acts_endStagger (s : State) : Acts s s.endStagger := by
  unfold State.endStagger
  split
  · exact acts_setSeq ..
  · exact Acts.refl s
  · exact Acts.refl s

/-- Acting with the scans and replays left out keeps what acting keeps. -/
theorem acts_unscanned {f : State → State} (hf : ∀ s, Acts s (f s)) (s : State) : Acts s (s.unscanned f) := by
  unfold State.unscanned
  split
  · exact ((acts_setSeq ..).trans (hf _)).trans (acts_endStagger _)
  · exact hf s

theorem acts_takeRise (s : State) (c : Change) : Acts s (s.takeRise c) :=
  acts_unscanned (acts_either (fun s => acts_evaluateChange s c) acts_lastGasp) s

theorem acts_reportStage (s before : State) : Acts s (s.reportStage before) := by
  unfold State.reportStage
  split
  · exact Acts.refl s
  · exact acts_blocksTake ..

theorem acts_lastRises (s : State) (c : Change) : Acts s (s.lastRises c) := by
  unfold State.lastRises
  split
  · exact ((acts_takeRise s c).trans (acts_reportFalls acts_drawFell _ _)).trans (acts_reportStage ..)
  · exact acts_either (fun s => acts_evaluateChange s c) acts_lastGasp s

theorem acts_takeChange (s before : State) : Acts s (s.takeChange before) := by
  unfold State.takeChange
  dsimp only
  split
  · exact Acts.refl s
  · refine Acts.trans ?_ (acts_takeOverFall ..)
    split
    · exact (acts_changeEndsDoze s).trans (acts_lastRises ..)
    · exact (acts_changeEndsDoze s).trans (acts_evaluateChange ..)

theorem acts_evaluateArrival (s : State) (c : Change) : Acts s (s.evaluateArrival c) := by
  unfold State.evaluateArrival
  split
  · exact Acts.refl s
  · exact (acts_changeEndsDoze s).trans (acts_evaluate ..)

theorem acts_budgetScan (s : State) : Acts s s.budgetScan := by
  unfold State.budgetScan
  split
  · exact acts_scanEvent s
  · exact Acts.refl s

theorem acts_takeArrival (s before : State) : Acts s (s.takeArrival before) :=
  (((acts_evaluateArrival s _).trans (acts_judgeOverrun _)).trans (acts_budgetScan _)).trans
    (acts_takeOverFall ..)

theorem acts_boundOverrun (s : State) : Acts s s.boundOverrun := ⟨rfl, rfl, rfl, rfl, rfl, id, id, id, fun _ => rfl, rfl, rfl, rfl, rfl, rfl, rfl⟩

theorem acts_restage (s : State) : Acts s s.restage := by
  unfold State.restage
  split
  · exact acts_setStage ..
  · exact (acts_setStage ..).trans (talk_raise ..).acts

theorem acts_sweep (s : State) : Acts s s.sweep := (acts_stageSheds s).trans (talk_enforcedFor ..).acts

theorem acts_recompute (s : State) : Acts s s.recompute :=
  ((((((acts_restage s).trans (acts_sweep _)).trans (acts_judgeOverrun _)).trans (acts_boundOverrun _)).trans
    (acts_judgeNewExit _)).trans (acts_blocksTake ..)).trans (acts_takeOverFall ..)

/-! ### Modes and the census, short of a change of mode -/

theorem acts_endWindDown (s : State) (n : LoadNo) : Acts s (s.endWindDown n) :=
  ((acts_unstack ..).trans (acts_changeRun ..)).trans (acts_commandOff ..)

theorem acts_departed (s : State) (n : LoadNo) (st : LoadState) : Acts s (s.departed n st) := by
  cases st <;> first | exact Acts.refl s | exact acts_endWindDown s n | exact acts_leaveStack s n

theorem acts_releaseEntry (s : State) (n : LoadNo) : Acts s (s.releaseEntry n) := by
  unfold State.releaseEntry
  split
  · dsimp only
    split
    · exact (acts_departed ..).trans (talk_reportDirect ..).acts
    · exact ((acts_departed ..).trans (talk_reportDirect ..).acts).trans (acts_reportDraw ..)
  · exact Acts.refl s

theorem acts_releaseEntries (s : State) (p : StackEntry → Bool) : Acts s (s.releaseEntries p) :=
  acts_foldl acts_releaseEntry _ s

theorem acts_leaveStorage (s : State) : Acts s s.leaveStorage :=
  ((acts_releaseEntries s _).trans (acts_endDoze _)).trans ⟨rfl, rfl, rfl, rfl, rfl, id, id, id, fun _ => rfl, rfl, rfl, rfl, rfl, rfl, rfl⟩

theorem acts_enterBypass (s : State) : Acts s s.enterBypass :=
  (acts_releaseEntries s _).trans (acts_withdrawHeld ..)

theorem acts_enterGoverning (s : State) (old : Mode) : Acts s (s.enterGoverning old) := by
  unfold State.enterGoverning
  split
  · exact acts_sweep s
  · exact Acts.refl s

theorem acts_enterStorage (s : State) : Acts s s.enterStorage :=
  (((acts_foldl (fun s n => acts_shed s .storage n) _ s).trans (acts_withdrawHeld ..)).trans
    (acts_startQuiet _)).trans (talk_enforcedFor ..).acts

theorem acts_enterMode (s : State) (old : Mode) : Acts s (s.enterMode old) := by
  unfold State.enterMode
  split
  · exact acts_enterBypass s
  · exact acts_enterGoverning s old
  · exact acts_enterStorage s
  · exact Acts.refl s

theorem acts_leaveCensus (s : State) (n : LoadNo) : Acts s (s.leaveCensus n) :=
  ⟨rfl, rfl, rfl, rfl, rfl, id, id, id, fun _ => rfl, rfl, rfl, rfl, rfl, rfl, rfl⟩

theorem acts_joinCensus (s : State) (n : LoadNo) : Acts s (s.joinCensus n) := by
  unfold State.joinCensus
  split
  · exact ⟨rfl, rfl, rfl, rfl, rfl, id, id, id, fun _ => rfl, rfl, rfl, rfl, rfl, rfl, rfl⟩
  · exact Acts.refl s

end Sys2Proof.Laws
end

