-- ==== Sys2Proof/Laws/Moves.lean ====
section
/-! SUPPORT. Every decision about loads keeps the laws of the stack, the restore and the queue: one lemma for each shared operation. -/

namespace Sys2Proof.Laws

set_option Elab.async false

open Sys2Proof.Machine

variable {x y : Option LoadNo} {b : Bool} {s : State}

theorem Talk.law {t : State} (k : Talk s t) (h : LoadsLaw x y b s) : LoadsLaw x y b t := h.congr k.sameView

theorem law_foldl {α : Type} {f : State → α → State} (hf : ∀ s a, LoadsLaw x y b s → LoadsLaw x y b (f s a))
    (l : List α) (h : LoadsLaw x y b s) : LoadsLaw x y b (l.foldl f s) := by
  induction l generalizing s with
  | nil => exact h
  | cons a l ih => exact ih (hf s a h)

theorem law_either {f g : State → State} (hf : ∀ s, LoadsLaw x y b s → LoadsLaw x y b (f s))
    (hg : ∀ s, LoadsLaw x y b s → LoadsLaw x y b (g s)) (h : LoadsLaw x y b s) :
    LoadsLaw x y b (s.eitherOrder f g) := by
  have hc : LoadsLaw x y b s.chosen := LoadsLaw.congr (s := s) ⟨fun _ => rfl, fun _ => rfl, rfl, rfl, rfl, rfl⟩ h
  unfold State.eitherOrder
  split
  · exact hg _ (hf _ hc)
  · exact hf _ (hg _ hc)

/-- A live load's state, from the load. -/
theorem state?_of {n : LoadNo} {l : Live} (h : s.live? n = some l) : s.state? n = some l.run.state := by
  unfold State.state?; rw [h]; rfl

theorem config?_of {n : LoadNo} {l : Live} (h : s.live? n = some l) : config? s n = some l.config := by
  unfold config?; rw [h]; rfl

/-! ### The queue -/

theorem law_decideHeld (n : LoadNo) (r : SwitchReply) (h : LoadsLaw x y b s) :
    LoadsLaw x y b (s.decideHeld n r) := by
  unfold State.decideHeld
  split
  · exact (talk_answerSwitch ..).law (h.unhold n)
  · exact h

theorem heldFor_none {n : LoadNo} (h : s.heldFor n = none) : n ∉ s.heldLoads := by
  unfold State.heldFor at h
  unfold State.heldLoads
  intro hm
  obtain ⟨e, he, hn⟩ := List.mem_map.1 hm
  have := List.find?_eq_none.1 h e he
  simp [hn] at this

/-- Deciding the held request of a load ends its pardon. -/
theorem law_decideHeldPardoned (n : LoadNo) (r : SwitchReply) (h : LoadsLaw x (some n) b s) :
    LoadsLaw x none b (s.decideHeld n r) := by
  unfold State.decideHeld
  split
  · exact (talk_answerSwitch ..).law h.unholdPardoned
  · exact h.unpardon fun hm => absurd hm (heldFor_none ‹_›)

theorem law_withdrawHeld (p : Held → Bool) (r : WithdrawReason) (h : LoadsLaw x y b s) :
    LoadsLaw x y b (s.withdrawHeld p r) := law_foldl (fun _ _ k => law_decideHeld _ _ k) _ h

/-! ### Restoration -/

theorem sameView_relevel (s : State) (n : LoadNo) (level : Option Nat) : SameView s (s.relevel n level) := by
  unfold State.relevel
  split
  · refine SameView.trans ?_ (talk_reportDirect ..).sameView
    refine SameView.trans ?_ (sameView_commandOn ..)
    exact sameView_changeRun n fun _ _ => rfl
  · exact SameView.refl s

theorem sameView_takeHeldLevel (s : State) (n : LoadNo) (c : LoadConfig) (w : Wish) :
    SameView s (s.takeHeldLevel n c w) := by
  unfold State.takeHeldLevel
  split
  · exact SameView.refl s
  · split
    · exact sameView_relevel ..
    · exact SameView.refl s

theorem law_grantByRestore (n : LoadNo) (h : LoadsLaw x (some n) b s) :
    LoadsLaw x none b (s.grantByRestore n) := by
  unfold State.grantByRestore
  split
  · exact (law_decideHeldPardoned n _ h).congr (sameView_takeHeldLevel ..)
  · rename_i hno
    refine h.unpardon fun hm => ?_
    cases hh : s.heldFor n with
    | none => exact absurd hm (heldFor_none hh)
    | some e =>
      cases hl : s.live? n with
      | none =>
        obtain ⟨st, hst, _⟩ := h.waiting n hm
        simp [State.state?, hl] at hst
      | some l => exact absurd hl (hno e l hh)

theorem sameView_setSeq_left {t : State} (v : SameView s t) (q : Sequencer) :
    SameView (s.setSeq q) (t.setSeq q) := ⟨v.state, v.config, v.stack, v.held, rfl, v.mode⟩

/-- The sequencer takes another state while no restore is in flight. -/
theorem law_setSeq (q : Sequencer) (idle : ∀ n, s.ladder.seq ≠ .restoring n) (h : LoadsLaw x y b s) :
    LoadsLaw x y b (s.setSeq q) :=
  { h with restore := fun n hn => absurd (h.restore n hn) (idle n) }

theorem law_endStagger (h : LoadsLaw x y b s) : LoadsLaw x y b s.endStagger := by
  unfold State.endStagger
  split
  · rename_i hs
    exact law_setSeq _ (by simp [hs]) h
  · exact h
  · exact h

/-- A load leaves the stack as the idle sequencer takes another state. -/
theorem LoadsLaw.leaveSeq (h : LoadsLaw x y b s) (idle : ∀ n, s.ladder.seq ≠ .restoring n) (n : LoadNo)
    (f : LoadConfig → Runtime → Runtime) (q : Sequencer) (hy : ∀ m, m ≠ n → some m ≠ y)
    (out : ∀ l, s.live? n = some l → stackState (f l.config l.run).state = false)
    (seq : ∀ l, s.live? n = some l → (f l.config l.run).state = .restoring → q = .restoring n) :
    LoadsLaw x (some n) b (((s.unstack n).changeRun n f).setSeq q) := by
  have st : ∀ m, (((s.unstack n).changeRun n f).setSeq q).state? m =
      if m = n then (s.live? n).map fun l => (f l.config l.run).state else s.state? m :=
    fun m => state?_changeRun (s.unstack n) n m f
  have stk : (((s.unstack n).changeRun n f).setSeq q).stackLoads = s.stackLoads.filter (· != n) :=
    stackLoads_unstack s n
  refine h.change n (fun m hm => by rw [st, if_neg hm]) (fun m => config?_changeRun (s.unstack n) n m f) rfl
    (by rw [stk]; exact h.once.filter _) (fun m hm => by rw [stk]; simp [hm]) ?_ (by rw [stk]; simp)
    (fun m _ hs => absurd hs (idle m)) ?_ h.heldOnce (fun _ => id) ?_ (fun _ hh => absurd rfl hh)
    (fun m hm _ => hy m hm)
  · rw [stk, st, if_pos rfl]
    cases hl : s.live? n with
    | none => simp
    | some l => simp [out l hl]
  · rw [st, if_pos rfl]; intro hr
    obtain ⟨l, hl, hf⟩ := Option.map_eq_some_iff.1 hr
    exact seq l hl hf
  · rw [st, if_pos rfl]; unfold State.state?; simp

/-- A restore keeps the laws when none is in flight (R105, R110, R111, R133). -/
theorem law_restore (e : StackEntry) (h : LoadsLaw x none b s) (idle : ∀ n, s.ladder.seq ≠ .restoring n) :
    LoadsLaw x none b (s.restore e) := by
  unfold State.restore
  split
  · exact h
  · dsimp only
    split
    · apply law_grantByRestore
      refine LoadsLaw.congr (sameView_setSeq_left (sameView_oweOn ..) _) ?_
      exact h.leaveSeq idle _ _ _ (by simp) (fun _ _ => rfl) (fun _ _ _ => rfl)
    · apply law_grantByRestore
      refine (talk_reportDirect ..).law ?_
      refine LoadsLaw.congr (sameView_setSeq_left (sameView_setOutput ..) _) ?_
      exact h.leaveSeq idle _ _ _ (by simp) (fun _ _ => rfl) (fun _ _ hr => absurd hr (by simp [Runtime.enterOn]))

theorem law_scan (h : LoadsLaw x none b s) (idle : ∀ n, s.ladder.seq ≠ .restoring n) :
    LoadsLaw x none b s.scan := by
  unfold State.scan
  split
  · exact law_restore _ h idle
  · exact h

theorem law_scanEvent (h : LoadsLaw x none b s) : LoadsLaw x none b s.scanEvent := by
  unfold State.scanEvent
  split
  · rename_i hi; exact law_scan h (by rw [hi]; simp)
  · exact h

/-! ### Admission -/

theorem law_directOn (n : LoadNo) (d : Fin 4) (w : Wish) (h : LoadsLaw x y b s)
    (hy : ∀ m, m ≠ n → some m ≠ y) : LoadsLaw x (some n) b (s.directOn n d w) := by
  unfold State.directOn
  split
  · rename_i l hl
    refine (talk_reportDirect ..).law ?_
    refine LoadsLaw.congr ((sameView_changeRun_unstack ..).trans (sameView_setOutput ..)) ?_
    refine h.leave n _ ?_ ?_ (fun hh => absurd rfl hh) (fun m hm _ => hy m hm)
    · intro l _; split <;> simp [Runtime.enterOn, stackState, *]
    · intro l _ hr; exfalso; revert hr; split <;> simp [Runtime.enterOn, *]
  · rename_i hn
    exact { h with
      waiting := fun m hm => by
        obtain ⟨st, hst, hw⟩ := h.waiting m hm
        refine ⟨st, hst, fun hmn => hw (hy m ?_)⟩
        intro e; subst e; exact hmn rfl }

theorem law_forwardPass (n : LoadNo) (w : Wish) (h : LoadsLaw x none b s) :
    LoadsLaw x (some n) b (s.forwardPass n w) := by
  unfold State.forwardPass
  split
  · exact ((talk_joinLoadFifo ..).law h).pardon n
  · exact law_directOn n _ w h (by simp)
  · exact h.pardon n

theorem law_switchOn (n : LoadNo) (w : Wish) (h : LoadsLaw x none b s) :
    LoadsLaw x (some n) b (s.switchOn n w) := by
  unfold State.switchOn
  split
  · refine (talk_reportDirect ..).law ?_
    refine LoadsLaw.congr (sameView_commandOn ..) ?_
    refine h.leave n _ ?_ ?_ (fun hh => absurd rfl hh) (fun _ _ _ => by simp)
    · intro l _; simp [Runtime.enterOn, stackState]
    · intro l _ hr; exfalso; revert hr; simp [Runtime.enterOn]
  · exact h.pardon n

theorem sameView_forwardToOn (s : State) (n : LoadNo) (w : Wish) : SameView s (s.forwardToOn n w) := by
  unfold State.forwardToOn
  split
  · exact sameView_relevel ..
  · exact SameView.refl s

/-- A pardon of a load that is not held is none. -/
theorem LoadsLaw.unpardonGone {n : LoadNo} (h : LoadsLaw x (some n) b s) (hn : n ∉ s.heldLoads) :
    LoadsLaw x none b s := h.unpardon fun hm => absurd hm hn

theorem not_held_unhold (s : State) (n : LoadNo) : ¬ n ∈ (s.unhold n).heldLoads := by
  rw [heldLoads_unhold]; simp

theorem held_forwardPass (s : State) (n : LoadNo) (w : Wish) : (s.forwardPass n w).heldLoads = s.heldLoads := by
  unfold State.forwardPass
  split
  · exact (talk_joinLoadFifo ..).sameView.held
  · unfold State.directOn
    split
    · exact (talk_reportDirect ..).sameView.held
    · rfl
  · rfl

theorem held_switchOn (s : State) (n : LoadNo) (w : Wish) : (s.switchOn n w).heldLoads = s.heldLoads := by
  unfold State.switchOn
  split
  · exact ((sameView_commandOn ..).trans (talk_reportDirect ..).sameView).held
  · rfl

theorem law_replayEntry (e : Held) (h : LoadsLaw x none b s) : LoadsLaw x none b (s.replayEntry e) := by
  unfold State.replayEntry
  split
  · exact h
  · split
    · refine (law_forwardPass _ _ ((talk_answerSwitch ..).law (h.unhold _))).unpardonGone ?_
      rw [held_forwardPass, (talk_answerSwitch ..).sameView.held]; exact not_held_unhold s _
    · exact law_decideHeld _ _ h
    · exact law_decideHeld _ _ h
    · exact law_decideHeld _ _ h
    · refine (talk_answerSwitch ..).law ((law_switchOn _ _ (h.unhold _)).unpardonGone ?_)
      rw [held_switchOn]; exact not_held_unhold s _
    all_goals exact h

theorem law_replay (h : LoadsLaw x none b s) : LoadsLaw x none b s.replay :=
  law_foldl (fun _ e k => law_replayEntry e k) _ h

theorem law_replayEvent (h : LoadsLaw x none b s) : LoadsLaw x none b s.replayEvent := by
  unfold State.replayEvent
  split
  · exact law_replay h
  · exact h

theorem law_blocksTake (scan replay : Bool) (h : LoadsLaw x none b s) :
    LoadsLaw x none b (s.blocksTake scan replay) := by
  unfold State.blocksTake
  split
  · exact law_either (fun _ k => law_scanEvent k) (fun _ k => law_replayEvent k) h
  · exact law_scanEvent h
  · exact law_replayEvent h
  · exact h

theorem law_drawFell (h : LoadsLaw x none b s) : LoadsLaw x none b s.drawFell := law_blocksTake _ _ h

theorem law_reportDraw (before : State) (h : LoadsLaw x none b s) : LoadsLaw x none b (s.reportDraw before) := by
  unfold State.reportDraw
  split
  · exact law_drawFell h
  · exact h

theorem law_reportFalls {f : State → State} (hf : ∀ t, LoadsLaw x y b t → LoadsLaw x y b (f t)) (before : State)
    (h : LoadsLaw x y b s) : LoadsLaw x y b (s.reportFalls before f) := law_foldl (fun t _ k => hf t k) _ h

theorem law_reportLockout (n : LoadNo) (h : LoadsLaw x none b s) : LoadsLaw x none b (s.reportLockout n) :=
  law_blocksTake _ _ h

theorem heldLoads_replaceHeld (s : State) (n : LoadNo) (src ch : Nat) (w : Wish) :
    (s.replaceHeld n src ch w).heldLoads = s.heldLoads := by
  unfold State.heldLoads State.replaceHeld
  simp only [List.map_map]
  apply List.map_congr_left
  intro e _
  simp only [Function.comp]
  split <;> rfl

theorem law_replaceHeld (n : LoadNo) (src ch : Nat) (w : Wish) (h : LoadsLaw x y b s) :
    LoadsLaw x y b (s.replaceHeld n src ch w) :=
  LoadsLaw.congr (s := s) ⟨fun _ => rfl, fun _ => rfl, rfl, heldLoads_replaceHeld .., rfl, rfl⟩ h

/-- A new entry, for a live load that has none, is neither ON nor RESTORING, outside STARTING. -/
theorem law_appendHeld {n : LoadNo} (src ch : Nat) (w : Wish) (h : LoadsLaw x y b s)
    (new : n ∉ s.heldLoads) (mode : s.control.mode ≠ .starting)
    (waits : ∃ st, s.state? n = some st ∧ st ≠ .on ∧ st ≠ .restoring) :
    LoadsLaw x y b (s.appendHeld n src ch w) := by
  have hl : (s.appendHeld n src ch w).heldLoads = s.heldLoads ++ [n] := by
    unfold State.heldLoads State.appendHeld; simp
  exact { h with
    heldOnce := by
      rw [hl]
      exact List.nodup_append.2 ⟨h.heldOnce, by simp, fun a ha c hc => by
        simp at hc; subst hc; intro e; subst e; exact new ha⟩
    waiting := fun m hm => by
      rw [hl] at hm
      rcases List.mem_append.1 hm with hm | hm
      · exact h.waiting m hm
      · simp at hm; subst hm
        obtain ⟨st, hst, hw⟩ := waits
        exact ⟨st, hst, fun _ => hw⟩
    starting := fun hm => absurd hm mode }

theorem law_holdOrRefuse (n : LoadNo) (l : Live) (src ch : Nat) (w : Wish) (r : RefuseReason)
    (h : LoadsLaw x y b s) (mode : s.control.mode ≠ .starting)
    (waits : ∃ st, s.state? n = some st ∧ st ≠ .on ∧ st ≠ .restoring) :
    LoadsLaw x y b (s.holdOrRefuse n l src ch w r) := by
  unfold State.holdOrRefuse
  split
  · split
    · exact (talk_answerSwitch ..).law ((talk_answerSwitch ..).law (law_replaceHeld n src ch w h))
    · split
      · exact (talk_answerSwitch ..).law (law_appendHeld src ch w h (heldFor_none ‹_›) mode waits)
      · exact ((talk_answerSwitch ..).trans (talk_raise ..)).law h
  · exact (talk_answerSwitch ..).law h

theorem law_requestRunning (n : LoadNo) (l : Live) (src ch : Nat) (w : Wish) (h : LoadsLaw x y b s) :
    LoadsLaw x y b (s.requestRunning n l src ch w) := by
  unfold State.requestRunning
  split
  · exact h.congr (sameView_forwardToOn ..)
  · split
    · exact (talk_answerSwitch ..).law h
    · split
      · exact h.congr (sameView_relevel ..)
      · exact (talk_answerSwitch ..).law h

/-- What the checks that hold a request say of the load's state. -/
theorem judge_waits {l : Live} (hv : s.judge l = .winding ∨ s.judge l = .staged ∨ s.judge l = .locked ∨
    s.judge l = .overBudget) : l.run.state ≠ .on ∧ l.run.state ≠ .restoring := by
  unfold State.judge at hv
  constructor <;> · intro he; simp only [he] at hv; revert hv; repeat' split <;> simp_all

theorem law_decideRequest (n : LoadNo) (l : Live) (src ch : Nat) (w : Wish) (hl : s.live? n = some l)
    (mode : s.control.mode ≠ .starting) (h : LoadsLaw x none b s) :
    LoadsLaw x none b (s.decideRequest n l src ch w) := by
  have hst := state?_of hl
  unfold State.decideRequest
  split
  · exact law_decideHeldPardoned n _ (law_forwardPass n w h)
  · exact (talk_answerSwitch ..).law h
  · exact (talk_answerSwitch ..).law h
  · exact (talk_answerSwitch ..).law h
  · exact law_requestRunning n l src ch w h
  · exact law_holdOrRefuse n l src ch w _ h mode ⟨_, hst, judge_waits (.inl ‹_›)⟩
  · exact (talk_answerSwitch ..).law h
  · exact law_holdOrRefuse n l src ch w _ h mode ⟨_, hst, judge_waits (.inr (.inl ‹_›))⟩
  · exact law_holdOrRefuse n l src ch w _ h mode ⟨_, hst, judge_waits (.inr (.inr (.inl ‹_›)))⟩
  · exact law_holdOrRefuse n l src ch w _ h mode ⟨_, hst, judge_waits (.inr (.inr (.inr ‹_›)))⟩
  · exact law_decideHeldPardoned n _ (law_switchOn n w h)

theorem mapped_live {ch : Nat} {n : LoadNo} {l : Live} (h : s.mapped ch = some (n, l)) :
    s.live? n = some l := by
  unfold State.mapped at h
  split at h
  · obtain ⟨l', hl, he⟩ := Option.map_eq_some_iff.1 h
    injection he with h1 h2; subst h1; subst h2; exact hl
  · simp at h

theorem law_takeRequest (src ch : Nat) {act : LoadNo → Live → State} (h : LoadsLaw x y b s)
    (ha : ∀ n l, s.live? n = some l → s.control.mode ≠ .starting → LoadsLaw x y b (act n l)) :
    LoadsLaw x y b (s.takeRequest src ch act) := by
  unfold State.takeRequest
  split
  · exact (talk_answerSwitch ..).law h
  · split
    · exact (talk_answerSwitch ..).law h
    · exact ha _ _ (mapped_live ‹_›) ‹_›

/-! ### Leaving the stack, and OFF -/

theorem law_leaveStack (n : LoadNo) (h : LoadsLaw x y b s) : LoadsLaw x y b (s.leaveStack n) := by
  refine h.leave n _ ?_ ?_ ?_ (fun _ _ => id)
  · intro l _; simp only [Runtime.leaveStack]; split <;> rfl
  · intro l _ hr; exfalso; revert hr; simp only [Runtime.leaveStack]; split <;> simp
  · intro _ l _ _; simp only [Runtime.leaveStack]; split <;> simp

theorem goOff_state (c : LoadConfig) (r : Runtime) :
    (Runtime.goOff c r).state = .off ∨ (Runtime.goOff c r).state = .lockout := by
  simp only [Runtime.goOff]; split <;> simp

/-- A change of a record, of a load that is not stacked, to a state that no law looks at. -/
theorem law_settle {n : LoadNo} {f : LoadConfig → Runtime → Runtime} (h : LoadsLaw x y b s)
    (out : ∀ l, s.live? n = some l → stackState l.run.state = false)
    (plain : ∀ c r, stackState (f c r).state = false ∧ (f c r).state ≠ .on ∧ (f c r).state ≠ .restoring) :
    LoadsLaw x y b (s.changeRun n f) :=
  h.changeRun n f (fun l hl => by rw [out l hl, (plain _ _).1])
    (fun l _ hr => absurd hr (plain _ _).2.2) (fun _ l _ _ => (plain _ _).2) (fun _ _ => id)

theorem plain_goOff (c : LoadConfig) (r : Runtime) : stackState (Runtime.goOff c r).state = false ∧
    (Runtime.goOff c r).state ≠ .on ∧ (Runtime.goOff c r).state ≠ .restoring := by
  rcases goOff_state c r with h | h <;> simp [h, stackState]

theorem plain_becomeOff (r : Runtime) : stackState r.becomeOff.state = false ∧
    r.becomeOff.state ≠ .on ∧ r.becomeOff.state ≠ .restoring := by simp [Runtime.becomeOff, stackState]

theorem law_forwardOff (n : LoadNo) (l : Live) (src ch : Nat) (hl : s.live? n = some l)
    (h : LoadsLaw x y b s) : LoadsLaw x y b (s.forwardOff n l src ch) := by
  unfold State.forwardOff
  split
  · exact (talk_answerSwitch ..).law (h.congr (sameView_changeRun n fun _ _ => rfl))
  · refine LoadsLaw.congr (sameView_commandOff ..) (law_settle h (fun l' hl' => ?_) plain_goOff)
    rw [hl] at hl'; injection hl' with hl'; subst hl'; simp [*, stackState]
  · exact (law_leaveStack n h).congr (sameView_commandOff ..)
  · refine LoadsLaw.congr (sameView_commandOff ..) (LoadsLaw.congr ?_ h)
    exact sameView_changeRun n fun _ _ => rfl
  all_goals exact h.congr (sameView_commandOff ..)

theorem live?_decideHeld (s : State) (n m : LoadNo) (r : SwitchReply) :
    (s.decideHeld n r).live? m = s.live? m := by
  unfold State.decideHeld
  split
  · exact live?_congr (talk_answerSwitch ..).loads m
  · rfl

theorem law_decideOff (n : LoadNo) (l : Live) (src ch : Nat) (hl : s.live? n = some l)
    (h : LoadsLaw x none b s) : LoadsLaw x none b (s.decideOff n l src ch) := by
  unfold State.decideOff
  dsimp only
  split
  · exact (talk_joinLoadFifo ..).law (law_decideHeld _ _ h)
  · refine law_reportDraw _ ((talk_reportDirect ..).law ?_)
    exact law_forwardOff n l src ch (by rw [live?_decideHeld]; exact hl) (law_decideHeld _ _ h)

end Sys2Proof.Laws
end

