-- ==== Sys2Proof/Laws/Sheds.lean ====
section
/-! SUPPORT. Sheds, last gasp, the evaluation of the ladder and the changes of mode keep the laws of the stack, the restore and the queue. -/

namespace Sys2Proof.Laws

set_option Elab.async false

open Sys2Proof.Machine

variable {x y : Option LoadNo} {b : Bool} {s : State}

/-- A change that no law looks at. -/
theorem sameView_rfl {s t : State} (loads : t.loads = s.loads := by rfl)
    (stack : t.ladder.stack = s.ladder.stack := by rfl) (hold : t.hold = s.hold := by rfl)
    (seq : t.ladder.seq = s.ladder.seq := by rfl) (mode : t.control.mode = s.control.mode := by rfl) :
    SameView s t := sameView_of loads stack hold seq mode

/-! ### Sheds -/

theorem state?_changeRun_self {n : LoadNo} {l : Live} (f : LoadConfig → Runtime → Runtime)
    (hl : s.live? n = some l) : (s.changeRun n f).state? n = some (f l.config l.run).state := by
  rw [state?_changeRun, if_pos rfl, hl]; rfl

theorem sheddable_iff (l : Live) : l.sheddable = true ↔
    (l.config.authority = .governed ∧ 1 ≤ l.config.tier) ∧ (l.run.state = .on ∨ l.run.state = .restoring) := by
  unfold Live.sheddable; simp

theorem state?_dropWithdrawn {n : LoadNo} {l : Live} (hl : s.live? n = some l) :
    (s.dropWithdrawn n).state? n = some .off := by
  unfold State.dropWithdrawn
  rw [(sameView_commandOff ..).state, state?_changeRun_self _ hl]; rfl

theorem law_dropWithdrawn {n : LoadNo} {l : Live} (hl : s.live? n = some l) (hs : stackState l.run.state = false)
    (h : LoadsLaw x y b s) : LoadsLaw x y b (s.dropWithdrawn n) := by
  refine LoadsLaw.congr (sameView_commandOff ..) (law_settle h ?_ fun _ r => plain_becomeOff r.decided)
  intro l' hl'
  rw [hl] at hl'; injection hl' with hl'; subst hl'; exact hs

theorem state?_shedRecord {n : LoadNo} {l : Live} (cause : ShedCause) (hl : s.live? n = some l) :
    (s.shedRecord n l cause).state? n ≠ some .restoring := by
  unfold State.shedRecord
  split
  · rw [state?_dropWithdrawn hl]; simp
  · split
    · show ((s.changeRun n _).setOwed n _).state? n ≠ _
      rw [state?_setOwed, state?_changeRun_self _ hl]; simp [Runtime.becomeWinding]
    · split
      · show ((s.changeRun n _).commandOff n).state? n ≠ _
        rw [(sameView_commandOff ..).state, state?_changeRun_self _ hl]; simp [Runtime.becomeShed]
      · rw [(sameView_commandOff ..).state, state?_changeRun_self _ hl]
        rcases goOff_state l.config l.run.decided with h | h <;> simp [h]

theorem law_shedRecord {n : LoadNo} {l : Live} (cause : ShedCause) (hl : s.live? n = some l)
    (hs : l.sheddable = true) (mode : s.control.mode ≠ .bypass) (h : LoadsLaw x y b s) :
    LoadsLaw x y b (s.shedRecord n l cause) := by
  obtain ⟨hg, hst⟩ := (sheddable_iff l).1 hs
  have hout : stackState l.run.state = false := by rcases hst with h | h <;> simp [h, stackState]
  have same : ∀ l', s.live? n = some l' → l' = l := fun l' h' => by
    rw [hl] at h'; injection h' with h'; exact h'.symm
  have gov : ∀ c, config? s n = some c → c.authority = .governed ∧ 1 ≤ c.tier := fun c hc => by
    rw [config?_of hl] at hc; injection hc with hc; subst hc; exact hg
  unfold State.shedRecord
  split
  · exact law_dropWithdrawn hl hout h
  · split
    · refine LoadsLaw.congr (sameView_push (sameView_setOwed ..)) ?_
      exact h.join n _ rfl _ (fun l' h' => ⟨rfl, same l' h' ▸ hout⟩) (by rw [hl]; rfl) gov mode
    · split
      · refine LoadsLaw.congr (sameView_push (sameView_commandOff ..)) ?_
        exact h.join n _ rfl _ (fun l' h' => ⟨rfl, same l' h' ▸ hout⟩) (by rw [hl]; rfl) gov mode
      · refine LoadsLaw.congr (sameView_commandOff ..) (law_settle h (fun l' h' => same l' h' ▸ hout) ?_)
        exact fun c r => plain_goOff c r.decided

theorem law_shedOne (n : LoadNo) (cause : ShedCause) (mode : s.control.mode ≠ .bypass)
    (h : LoadsLaw x y b s) : LoadsLaw x y b (s.shedOne n cause) := by
  unfold State.shedOne
  split
  · exact h
  · split
    · exact (talk_reportDirect ..).law
        ((law_shedRecord cause ‹_› ‹_› mode h).restoreEnded n (state?_shedRecord cause ‹_›))
    · exact h

theorem law_shed (cause : ShedCause) (n : LoadNo) (mode : s.control.mode ≠ .bypass)
    (h : LoadsLaw x none b s) : LoadsLaw x none b (s.shed cause n) :=
  law_reportDraw _ (law_shedOne n cause mode h)

/-- Sheds of several loads, out of BYPASS. -/
theorem law_sheds (cause : ShedCause) (l : List LoadNo) (mode : s.control.mode ≠ .bypass)
    (h : LoadsLaw x none b s) : LoadsLaw x none b (l.foldl (State.shed · cause ·) s) := by
  revert s
  induction l with
  | nil => exact fun _ h => h
  | cons n l ih =>
    intro s mode h
    have hm : (s.shed cause n).control.mode ≠ .bypass := by rw [(acts_shed s cause n).mode]; exact mode
    rw [List.foldl_cons]
    exact ih hm (law_shed cause n mode h)

theorem inShedOrder_none (s : State) {p : Live → Bool} (hp : ∀ l, p l = false) : s.inShedOrder p = [] := by
  have h1 : s.sortIn p = fun sorted _ => sorted := by
    funext sorted n
    unfold State.sortIn
    split
    · rw [hp]; rfl
    · rfl
  unfold State.inShedOrder
  rw [h1]
  rfl

theorem stageSet_bypass (h : s.control.mode = .bypass) : s.stageSet = [] :=
  inShedOrder_none s fun l => by simp [h]

theorem law_stageSheds (h : LoadsLaw x none b s) : LoadsLaw x none b s.stageSheds := by
  unfold State.stageSheds
  by_cases mode : s.control.mode = .bypass
  · rw [stageSet_bypass mode]; exact h
  · exact law_sheds _ _ mode h

theorem law_sweep (h : LoadsLaw x none b s) : LoadsLaw x none b s.sweep :=
  (talk_enforcedFor ..).law (law_stageSheds h)

/-! ### Last gasp -/

theorem gaspable_iff (l : Live) : l.gaspable = true ↔ (l.config.authority = .governed ∧ 1 ≤ l.config.tier) ∧
    (l.run.state = .on ∨ l.run.state = .restoring ∨ l.run.state = .winding) := by
  unfold Live.gaspable; simp [or_assoc]

theorem stackLoads_liftEntry (s : State) (n : LoadNo) : (s.liftEntry n).stackLoads =
    if n ∈ s.stackLoads then n :: s.stackLoads.filter (· != n) else s.stackLoads := by
  unfold State.liftEntry
  split
  · rename_i e he
    have h1 := List.mem_of_find?_eq_some he
    have h2 : e.load = n := by simpa using List.find?_some he
    have hm : n ∈ s.stackLoads := List.mem_map.2 ⟨e, h1, h2⟩
    rw [if_pos hm, stackLoads_push, stackLoads_unstack]
    rw [show ({ e with cause := ShedCause.lastGasp } : StackEntry).load = n from h2]
  · rename_i he
    have hm : n ∉ s.stackLoads := by
      intro hm
      obtain ⟨e, h1, h2⟩ := List.mem_map.1 hm
      have := List.find?_eq_none.1 he e h1
      simp [h2] at this
    rw [if_neg hm]

theorem liftEntry_others (s : State) (n : LoadNo) :
    (s.liftEntry n).loads = s.loads ∧ (s.liftEntry n).hold = s.hold ∧
    (s.liftEntry n).ladder.seq = s.ladder.seq ∧ (s.liftEntry n).control = s.control := by
  unfold State.liftEntry
  split <;> exact ⟨rfl, rfl, rfl, rfl⟩

theorem law_liftEntry (n : LoadNo) (h : LoadsLaw x y b s) : LoadsLaw x y b (s.liftEntry n) := by
  obtain ⟨e1, e2, e3, e4⟩ := liftEntry_others s n
  have hst : ∀ m, (s.liftEntry n).state? m = s.state? m := state?_congr e1
  have hcf : ∀ m, config? (s.liftEntry n) m = config? s m := fun m => by unfold config?; rw [live?_congr e1]
  have hh : (s.liftEntry n).heldLoads = s.heldLoads := by unfold State.heldLoads; rw [e2]
  have hmem : ∀ m, m ∈ (s.liftEntry n).stackLoads ↔ m ∈ s.stackLoads := by
    intro m
    rw [stackLoads_liftEntry]
    split
    · by_cases hm : m = n
      · subst hm; simp [*]
      · simp [hm]
    · rfl
  exact
    { once := by
        rw [stackLoads_liftEntry]
        split
        · exact List.nodup_cons.2 ⟨by simp, h.once.filter _⟩
        · exact h.once
      exact := fun m => by rw [hmem, hst]; exact h.exact m
      governed := fun m c hm hx hc => h.governed m c ((hmem m).1 hm) hx (by rw [← hcf]; exact hc)
      bypass := fun hb hmode => by
        rw [e4] at hmode
        apply List.eq_nil_iff_forall_not_mem.2
        intro m hm
        have := (hmem m).1 hm
        rw [h.bypass hb hmode] at this; simp at this
      restore := fun m hm => by rw [e3]; exact h.restore m (by rw [← hst]; exact hm)
      heldOnce := by rw [hh]; exact h.heldOnce
      waiting := fun m hm => by rw [hst]; exact h.waiting m (by rw [← hh]; exact hm)
      starting := fun hm => by rw [hh]; exact h.starting (by rw [← e4]; exact hm) }

theorem state?_gaspRecord {n : LoadNo} {l : Live} (hl : s.live? n = some l) :
    (s.gaspRecord n l).state? n ≠ some .restoring := by
  unfold State.gaspRecord
  split
  · rw [state?_dropWithdrawn hl]; simp
  · split
    · rw [state?_congr (liftEntry_others ..).1, (sameView_commandOff ..).state, state?_changeRun_self _ hl]
      simp [Runtime.becomeShed]
    · show ((s.changeRun n _).commandOff n).state? n ≠ _
      rw [(sameView_commandOff ..).state, state?_changeRun_self _ hl]; simp [Runtime.becomeShed]

theorem law_gaspRecord {n : LoadNo} {l : Live} (hl : s.live? n = some l) (hs : l.gaspable = true)
    (mode : s.control.mode ≠ .bypass) (h : LoadsLaw x y b s) : LoadsLaw x y b (s.gaspRecord n l) := by
  obtain ⟨hg, hst⟩ := (gaspable_iff l).1 hs
  have same : ∀ l', s.live? n = some l' → l' = l := fun l' h' => by
    rw [hl] at h'; injection h' with h'; exact h'.symm
  have gov : ∀ c, config? s n = some c → c.authority = .governed ∧ 1 ≤ c.tier := fun c hc => by
    rw [config?_of hl] at hc; injection hc with hc; subst hc; exact hg
  unfold State.gaspRecord
  split
  · rename_i hr
    exact law_dropWithdrawn hl (by rw [hr.1]; rfl) h
  · split
    · rename_i hw
      refine law_liftEntry n (LoadsLaw.congr (sameView_commandOff ..) ?_)
      refine h.changeRun n _ (fun l' h' => ?_) (fun l' _ hr => absurd hr (by simp [Runtime.becomeShed]))
        (fun _ l' _ _ => by simp [Runtime.becomeShed]) (fun _ _ => id)
      rw [same l' h', hw]; rfl
    · rename_i hw
      have hout : stackState l.run.state = false := by
        rcases hst with h | h | h
        · simp [h, stackState]
        · simp [h, stackState]
        · exact absurd h hw
      refine LoadsLaw.congr (sameView_push (sameView_commandOff ..)) ?_
      exact h.join n _ rfl _ (fun l' h' => ⟨rfl, same l' h' ▸ hout⟩) (by rw [hl]; rfl) gov mode

theorem law_gaspOne (n : LoadNo) (mode : s.control.mode ≠ .bypass) (h : LoadsLaw x y b s) :
    LoadsLaw x y b (s.gaspOne n) := by
  unfold State.gaspOne
  split
  · exact h
  · split
    · exact (talk_reportDirect ..).law
        ((law_gaspRecord ‹_› ‹_› mode h).restoreEnded n (state?_gaspRecord ‹_›))
    · exact h

theorem law_gasps (l : List LoadNo) (mode : s.control.mode ≠ .bypass) (h : LoadsLaw x y b s) :
    LoadsLaw x y b (l.foldl State.gaspOne s) := by
  induction l generalizing s with
  | nil => exact h
  | cons n l ih =>
    have hm : (s.gaspOne n).control.mode ≠ .bypass := by rw [(acts_gaspOne s n).mode]; exact mode
    rw [List.foldl_cons]
    exact ih (s := s.gaspOne n) hm (law_gaspOne n mode h)

theorem law_lastGasp (h : LoadsLaw x none b s) : LoadsLaw x none b s.lastGasp := by
  unfold State.lastGasp
  split
  · rename_i hm
    refine (talk_raise ..).law (law_gasps _ ?_ h)
    rcases hm with hm | hm <;> simp [hm]
  · exact (talk_raise ..).law h

/-! ### OVER and the evaluation -/

theorem sameView_judgeOverrun (s : State) : SameView s s.judgeOverrun := by
  unfold State.judgeOverrun
  split
  · split <;> exact sameView_rfl
  · exact sameView_rfl

theorem law_budgetShed (h : LoadsLaw x none b s) : LoadsLaw x none b s.budgetShed := by
  unfold State.budgetShed
  split
  · rename_i hm
    split
    · exact law_shed _ _ (by rcases hm with hm | hm <;> simp [hm]) h
    · exact (talk_raise ..).law h
  · exact h

theorem sameView_judgeNewExit (s : State) : SameView s s.judgeNewExit := by
  unfold State.judgeNewExit
  split
  · exact sameView_rfl
  · exact SameView.refl s

theorem law_escalate (i : Fin 8) (h : LoadsLaw x none b s) : LoadsLaw x none b (s.escalate i) := by
  have h1 : LoadsLaw x none b (s.setStage i) := LoadsLaw.congr (s := s) sameView_rfl h
  exact law_blocksTake _ _ (((law_stageSheds ((talk_raise ..).law h1)).congr (sameView_judgeOverrun _)).congr
    (sameView_judgeNewExit _))

theorem law_leaveStage (h : LoadsLaw x none b s) : LoadsLaw x none b s.leaveStage := by
  have h1 : LoadsLaw x none b (s.setStage s.lowerStage) := LoadsLaw.congr (s := s) sameView_rfl h
  exact law_blocksTake _ _ ((((talk_raise ..).law h1).congr (sameView_judgeOverrun _)).congr
    (sameView_judgeNewExit _))

theorem law_judgeExit (c : Change) (h : LoadsLaw x none b s) : LoadsLaw x none b (s.judgeExit c) := by
  unfold State.judgeExit
  split
  · split
    · exact law_leaveStage h
    · exact LoadsLaw.congr (s := s) sameView_rfl h
  · exact LoadsLaw.congr (s := s) sameView_rfl h

theorem law_evaluate (c : Change) (h : LoadsLaw x none b s) : LoadsLaw x none b (s.evaluate c) := by
  unfold State.evaluate
  split
  · exact law_judgeExit c h
  · exact law_escalate _ h

theorem law_exitExpired (h : LoadsLaw x none b s) : LoadsLaw x none b s.exitExpired := by
  have h1 : LoadsLaw x none b s.stopExitDwell := LoadsLaw.congr (s := s) sameView_rfl h
  unfold State.exitExpired
  dsimp only
  split
  · exact law_leaveStage h1
  · exact law_escalate _ h1

theorem sameView_converterNext (s : State) : SameView s s.converterNext := by
  unfold State.converterNext
  split
  · exact SameView.refl s
  · split
    · exact sameView_rfl
    · split
      · exact sameView_rfl
      · exact SameView.refl s

theorem sameView_beginRound (s : State) : SameView s s.beginRound :=
  SameView.trans (t := s.startRound) sameView_rfl (sameView_converterNext _)

theorem sameView_roundDue (s : State) : SameView s s.roundDue := by
  unfold State.roundDue
  split
  · exact sameView_beginRound s
  · exact sameView_rfl

theorem sameView_endDoze (s : State) : SameView s s.endDoze := by
  unfold State.endDoze
  split
  · exact SameView.trans (t := s.wake) sameView_rfl (sameView_roundDue _)
  · exact SameView.refl s

theorem sameView_changeEndsDoze (s : State) : SameView s s.changeEndsDoze := by
  unfold State.changeEndsDoze
  split
  · exact (sameView_endDoze s).trans sameView_rfl
  · exact SameView.refl s

theorem sameView_lineActivity (s : State) : SameView s s.lineActivity := by
  unfold State.lineActivity
  split
  · exact (sameView_endDoze s).trans sameView_rfl
  · exact SameView.refl s

theorem sameView_learn (s : State) (line : Line) (src : Nat) : SameView s (s.learn line src) := by
  have h : SameView s (s.setSide src (Line.side line)) := sameView_rfl
  unfold State.learn
  split
  · exact h
  · exact h.trans (talk_raise _ _).sameView

theorem law_evaluateChange (c : Change) (h : LoadsLaw x none b s) : LoadsLaw x none b (s.evaluateChange c) := by
  unfold State.evaluateChange
  split
  · exact (law_evaluate c h).congr (sameView_judgeOverrun _)
  · exact law_evaluate c h

theorem law_takeOverFall (before : State) (h : LoadsLaw x none b s) :
    LoadsLaw x none b (s.takeOverFall before) := by
  unfold State.takeOverFall
  split
  · have h1 := h.congr (sameView_changeEndsDoze s)
    dsimp only
    split
    · exact law_evaluate _ h1
    · exact law_either (fun _ k => law_evaluate overFall k) (fun _ k => law_scanEvent k) h1
  · exact h

/-- Acting with the scans and replays left out keeps the laws that acting keeps. -/
theorem law_unscanned {f : State → State} (hf : ∀ t, LoadsLaw x y b t → LoadsLaw x y b (f t))
    (h : LoadsLaw x y b s) : LoadsLaw x y b (s.unscanned f) := by
  unfold State.unscanned
  split
  · rename_i hs
    exact law_endStagger (hf _ (law_setSeq _ (by simp [hs]) h))
  · exact hf s h

theorem law_reportStage (before : State) (h : LoadsLaw x none b s) : LoadsLaw x none b (s.reportStage before) := by
  unfold State.reportStage
  split
  · exact h
  · exact law_blocksTake _ _ h

theorem law_lastRises (c : Change) (h : LoadsLaw x none b s) : LoadsLaw x none b (s.lastRises c) := by
  have both (t : State) (k : LoadsLaw x none b t) :=
    law_either (fun _ k => law_evaluateChange c k) (fun _ k => law_lastGasp k) k
  unfold State.lastRises
  split
  · exact law_reportStage _ (law_reportFalls (fun _ k => law_drawFell k) _ (law_unscanned both h))
  · exact both s h

/-- The takings of a rise of LAST come to one of two orders: what holds of both holds of them (R158). -/
theorem takeRise_of_orders {p : State → Prop} {c : Change}
    (evaluated : p (s.unscanned fun t => (t.chosen.evaluateChange c).lastGasp))
    (gasped : p (s.unscanned fun t => t.chosen.lastGasp.evaluateChange c)) : p (s.takeRise c) := by
  have o : s.takeRise c =
      if Config.takesFirst s.choices then s.unscanned fun t => (t.chosen.evaluateChange c).lastGasp
      else s.unscanned fun t => t.chosen.lastGasp.evaluateChange c := by
    unfold State.takeRise State.unscanned State.eitherOrder
    by_cases idle : s.ladder.seq = .idle
    · simp only [if_pos idle]
      show (if Config.takesFirst s.choices = true then _ else _ : State).endStagger = _
      split <;> rfl
    · simp only [if_neg idle]
  rw [o]
  split
  · exact evaluated
  · exact gasped

theorem law_takeChange (before : State) (h : LoadsLaw x none b s) :
    LoadsLaw x none b (s.takeChange before) := by
  unfold State.takeChange
  dsimp only
  split
  · exact h
  · have h1 := h.congr (sameView_changeEndsDoze s)
    refine law_takeOverFall _ ?_
    split
    · exact law_lastRises _ h1
    · exact law_evaluateChange _ h1

theorem law_takeArrival (before : State) (h : LoadsLaw x none b s) :
    LoadsLaw x none b (s.takeArrival before) := by
  have h1 : LoadsLaw x none b (s.evaluateArrival (Change.between before.word s.word)) := by
    unfold State.evaluateArrival
    split
    · exact h
    · exact law_evaluate _ (h.congr (sameView_changeEndsDoze s))
  have h2 := h1.congr (sameView_judgeOverrun _)
  refine law_takeOverFall _ ?_
  unfold State.budgetScan
  split
  · exact law_scanEvent h2
  · exact h2

theorem law_restage (h : LoadsLaw x none b s) : LoadsLaw x none b s.restage := by
  have h1 : LoadsLaw x none b (s.setStage s.levelStage) := LoadsLaw.congr (s := s) sameView_rfl h
  unfold State.restage
  split
  · exact h1
  · exact (talk_raise ..).law h1

theorem law_recompute (h : LoadsLaw x none b s) : LoadsLaw x none b s.recompute := by
  have h1 := (law_sweep (law_restage h)).congr (sameView_judgeOverrun _)
  have h2 : LoadsLaw x none b (s.restage.sweep.judgeOverrun.boundOverrun) :=
    LoadsLaw.congr (s := s.restage.sweep.judgeOverrun) sameView_rfl h1
  exact law_takeOverFall _ (law_blocksTake _ _ (h2.congr (sameView_judgeNewExit _)))

/-! ### Changes of mode -/

theorem law_endWindDown (n : LoadNo) (h : LoadsLaw x y b s) : LoadsLaw x y b (s.endWindDown n) := by
  refine LoadsLaw.congr (sameView_commandOff ..) ?_
  exact h.leave n _ (fun _ _ => rfl) (fun _ _ hr => absurd hr (by simp [Runtime.becomeOff]))
    (fun _ _ _ _ => by simp [Runtime.becomeOff]) (fun _ _ => id)

theorem law_departed (n : LoadNo) (st : LoadState) (h : LoadsLaw x y b s) : LoadsLaw x y b (s.departed n st) := by
  cases st <;> first | exact h | exact law_endWindDown n h | exact law_leaveStack n h

theorem law_releaseEntry (n : LoadNo) (h : LoadsLaw x none b s) : LoadsLaw x none b (s.releaseEntry n) := by
  unfold State.releaseEntry
  split
  · rename_i l _
    have h1 := (talk_reportDirect (s.departed n l.run.state) n l.run).law (law_departed n _ h)
    dsimp only
    split
    · exact h1
    · exact law_reportDraw _ h1
  · exact h

theorem law_releaseEntries (p : StackEntry → Bool) (h : LoadsLaw x none b s) :
    LoadsLaw x none b (s.releaseEntries p) := law_foldl (fun _ _ k => law_releaseEntry _ k) _ h

theorem law_leaveStorage (h : LoadsLaw x none b s) : LoadsLaw x none b s.leaveStorage := by
  refine LoadsLaw.congr ((sameView_endDoze _).trans sameView_rfl) (law_releaseEntries _ h)

/-- The stack of `t` holds no load that the stack of `s` does not. -/
def Shrinks (s t : State) : Prop := ∀ n, n ∈ t.stackLoads → n ∈ s.stackLoads

theorem shrinks_of {t : State} (h : t.stackLoads = s.stackLoads) : Shrinks s t := fun _ hn => h ▸ hn

theorem shrinks_decideHeld (s : State) (n : LoadNo) (r : SwitchReply) : Shrinks s (s.decideHeld n r) := by
  unfold State.decideHeld
  split
  · exact shrinks_of (talk_answerSwitch ..).sameView.stack
  · exact shrinks_of rfl

theorem shrinks_unstack (s : State) (n : LoadNo) : Shrinks s (s.unstack n) := fun m hm => by
  rw [stackLoads_unstack] at hm; exact (List.mem_filter.1 hm).1

theorem shrinks_forwardPass (s : State) (n : LoadNo) (w : Wish) : Shrinks s (s.forwardPass n w) := by
  unfold State.forwardPass
  split
  · exact shrinks_of (talk_joinLoadFifo ..).sameView.stack
  · unfold State.directOn
    split
    · intro m hm
      rw [(talk_reportDirect ..).sameView.stack] at hm
      exact shrinks_unstack _ n m hm
    · exact shrinks_of rfl
  · exact shrinks_of rfl

theorem shrinks_switchOn (s : State) (n : LoadNo) (w : Wish) : Shrinks s (s.switchOn n w) := by
  unfold State.switchOn
  split
  · intro m hm
    rw [(talk_reportDirect ..).sameView.stack, (sameView_commandOn ..).stack] at hm
    exact shrinks_unstack _ n m hm
  · exact shrinks_of rfl

theorem shrinks_replayEntry (s : State) (e : Held) : Shrinks s (s.replayEntry e) := by
  unfold State.replayEntry
  split
  · exact shrinks_of rfl
  · split
    · intro m hm
      have hm := shrinks_forwardPass _ _ _ m hm
      rw [(talk_answerSwitch ..).sameView.stack] at hm
      exact hm
    · exact shrinks_decideHeld s _ _
    · exact shrinks_decideHeld s _ _
    · exact shrinks_decideHeld s _ _
    · intro m hm
      rw [(talk_answerSwitch ..).sameView.stack] at hm
      exact shrinks_switchOn (s.unhold e.load) _ _ m hm
    all_goals exact shrinks_of rfl

theorem shrinks_replayEvent (s : State) : Shrinks s s.replayEvent := by
  unfold State.replayEvent
  split
  · have : ∀ (l : List Held) (s : State), Shrinks s (l.foldl State.replayEntry s) := by
      intro l
      induction l with
      | nil => exact fun s => shrinks_of rfl
      | cons e l ih => exact fun s m hm => shrinks_replayEntry s e m (ih _ m hm)
    exact this _ _
  · exact shrinks_of rfl

theorem Shrinks.trans {s t u : State} (h : Shrinks s t) (k : Shrinks t u) : Shrinks s u :=
  fun n hn => h n (k n hn)

theorem shrinks_grantByRestore (s : State) (n : LoadNo) : Shrinks s (s.grantByRestore n) := by
  unfold State.grantByRestore
  split
  · exact (shrinks_decideHeld s _ _).trans (shrinks_of (sameView_takeHeldLevel ..).stack)
  · exact shrinks_of rfl

theorem shrinks_restore (s : State) (e : StackEntry) : Shrinks s (s.restore e) := by
  unfold State.restore
  split
  · exact shrinks_of rfl
  · dsimp only
    split
    · refine ((shrinks_unstack s e.load).trans ?_).trans (shrinks_grantByRestore _ _)
      exact shrinks_of (sameView_oweOn (State.changeRun _ _ _) _ _).stack
    · refine ((shrinks_unstack s e.load).trans ?_).trans (shrinks_grantByRestore _ _)
      exact shrinks_of (talk_reportDirect ..).sameView.stack

theorem shrinks_scanEvent (s : State) : Shrinks s s.scanEvent := by
  unfold State.scanEvent State.scan
  split
  · split
    · exact shrinks_restore _ _
    · exact shrinks_of rfl
  · exact shrinks_of rfl

theorem shrinks_blocksTake (s : State) (scan replay : Bool) : Shrinks s (s.blocksTake scan replay) := by
  unfold State.blocksTake
  split
  · have hc : Shrinks s s.chosen := shrinks_of rfl
    unfold State.eitherOrder
    split
    · exact (hc.trans (shrinks_scanEvent _)).trans (shrinks_replayEvent _)
    · exact (hc.trans (shrinks_replayEvent _)).trans (shrinks_scanEvent _)
  · exact shrinks_scanEvent s
  · exact shrinks_replayEvent s
  · exact shrinks_of rfl

theorem shrinks_reportDraw (s before : State) : Shrinks s (s.reportDraw before) := by
  unfold State.reportDraw
  split
  · exact shrinks_blocksTake _ _ _
  · exact shrinks_of rfl

theorem shrinks_departed (s : State) (n : LoadNo) (st : LoadState) : Shrinks s (s.departed n st) := by
  cases st with
  | winding =>
    refine (shrinks_unstack s n).trans (t := s.unstack n) ?_
    exact shrinks_of (sameView_commandOff ((s.unstack n).changeRun n _) n).stack
  | shed => exact (shrinks_unstack s n).trans (t := s.unstack n) (shrinks_of rfl)
  | _ => exact shrinks_of rfl

theorem shrinks_releaseEntry (s : State) (n : LoadNo) : Shrinks s (s.releaseEntry n) := by
  unfold State.releaseEntry
  split
  · rename_i l _
    have h1 := (shrinks_departed s n l.run.state).trans
      (shrinks_of (talk_reportDirect (s.departed n l.run.state) n l.run).sameView.stack)
    dsimp only
    split
    · exact h1
    · exact h1.trans (shrinks_reportDraw _ _)
  · exact shrinks_of rfl

/-- A released load is in the stack no more. -/
theorem gone_releaseEntry {n : LoadNo} (h : LoadsLaw x y b s) :
    n ∉ (s.releaseEntry n).stackLoads := by
  unfold State.releaseEntry
  split
  · rename_i l hl
    have h1 : n ∉ ((s.departed n l.run.state).reportDirect n l.run).stackLoads := by
      rw [(talk_reportDirect ..).sameView.stack]
      have hx := h.exact n
      rw [state?_of hl] at hx
      revert hx
      cases l.run.state with
      | winding =>
        intro _
        show n ∉ (((s.unstack n).changeRun n _).commandOff n).stackLoads
        rw [(sameView_commandOff ..).stack]
        show n ∉ (s.unstack n).stackLoads
        rw [stackLoads_unstack]; simp
      | shed =>
        intro _
        show n ∉ (s.unstack n).stackLoads
        rw [stackLoads_unstack]; simp
      | _ => intro hx hn; simpa [stackState] using hx.1 hn
    dsimp only
    split
    · exact h1
    · exact fun hmm => h1 (shrinks_reportDraw _ _ n hmm)
  · rename_i hl
    intro hn
    have := (h.exact n).1 hn
    simp [State.state?, hl] at this

theorem released (l : List LoadNo) (h : LoadsLaw x none b s) :
    ∀ n, n ∈ (l.foldl State.releaseEntry s).stackLoads → n ∈ s.stackLoads ∧ n ∉ l := by
  induction l generalizing s with
  | nil => intro n hn; exact ⟨hn, by simp⟩
  | cons a l ih =>
    intro n hn
    obtain ⟨h1, h2⟩ := ih (law_releaseEntry a h) n hn
    refine ⟨shrinks_releaseEntry s a n h1, ?_⟩
    intro hc
    rcases List.mem_cons.1 hc with hc | hc
    · subst hc; exact gone_releaseEntry h h1
    · exact h2 hc

/-- Entry to BYPASS empties the stack (R152). -/
theorem stack_enterBypass (h : LoadsLaw x none b s) :
    s.enterBypass.stackLoads = [] := by
  have h1 : ∀ n, n ∉ (s.releaseEntries fun _ => true).stackLoads := by
    intro n hn
    have := released _ h n hn
    refine this.2 ?_
    simpa [State.stackLoads] using this.1
  apply List.eq_nil_iff_forall_not_mem.2
  intro n hn
  have : ∀ (l : List Held) (f : Held → SwitchReply) (t : State), Shrinks t (l.foldl (fun s h => s.decideHeld h.load (f h)) t) := by
    intro l f
    induction l with
    | nil => exact fun t => shrinks_of rfl
    | cons e l ih => exact fun t m hm => shrinks_decideHeld t _ _ m (ih _ m hm)
  exact h1 n (this _ (fun _ => .withdrawn .bypass) _ n hn)

theorem law_enterBypass (h : LoadsLaw x none b s) : LoadsLaw x none b s.enterBypass :=
  law_withdrawHeld _ _ (law_releaseEntries _ h)

theorem law_enterStorage (mode : s.control.mode ≠ .bypass) (h : LoadsLaw x none b s) :
    LoadsLaw x none b s.enterStorage := by
  refine (talk_enforcedFor ..).law ?_
  refine LoadsLaw.congr (s := State.withdrawHeld _ _ _) sameView_rfl ?_
  exact law_withdrawHeld _ _ (law_sheds _ _ mode h)

/-- The BYPASS clause comes back where it holds. -/
theorem LoadsLaw.regain (h : LoadsLaw x y false s) (hb : s.control.mode = .bypass → s.stackLoads = []) :
    LoadsLaw x y true s := { h with bypass := fun _ => hb }

theorem law_enterMode (old : Mode) (h : LoadsLaw x none false s) : LoadsLaw x none true (s.enterMode old) := by
  unfold State.enterMode
  split
  · exact (law_enterBypass h).regain fun _ => stack_enterBypass h
  · rename_i hm
    have hne : s.control.mode ≠ .bypass := by rw [hm]; simp
    have h0 : LoadsLaw x none true s := h.regain fun e => absurd e hne
    unfold State.enterGoverning
    split
    · exact law_sweep h0
    · exact h0
  · rename_i hm
    have hne : s.control.mode ≠ .bypass := by rw [hm]; simp
    exact law_enterStorage hne (h.regain fun e => absurd e hne)
  · rename_i hm
    exact h.regain fun e => absurd (e.symm.trans hm) (by simp)

theorem law_changeMode (new : Mode) (hn : new ≠ .starting) (h : LoadsLaw x none b s) :
    LoadsLaw x none true (s.changeMode new) := by
  have h1 : LoadsLaw x none false (s.setMode new) :=
    { once := h.once, exact := h.exact, governed := h.governed, bypass := by simp, restore := h.restore,
      heldOnce := h.heldOnce, waiting := h.waiting, starting := fun hm => absurd hm hn }
  have h2 : LoadsLaw x none false (s.leaveFor new) := by
    unfold State.leaveFor
    split
    · exact law_leaveStorage h1
    · exact h1
  have h3 := law_enterMode s.control.mode h2
  have h4 : LoadsLaw x none true (((s.leaveFor new).enterMode s.control.mode).tellDepartures s new) := by
    unfold State.tellDepartures
    split
    · exact law_reportFalls (fun _ k => law_drawFell k) _ h3
    · exact h3
  refine law_blocksTake _ _ ?_
  unfold State.gaspOnEntry
  split
  · exact law_reportFalls (fun _ k => law_drawFell k) _ (law_lastGasp h4)
  · exact h4

end Sys2Proof.Laws
end

