-- ==== Sys2Proof/Laws/Effects.lean ====
section
/-! SUPPORT. Reports, publishing and retiring keep the laws of the stack, the restore and the queue, and the tables, mode and lists with them. -/

namespace Sys2Proof.Laws

set_option Elab.async false

open Sys2Proof.Machine

variable {x y : Option LoadNo} {b : Bool} {s : State} {n : LoadNo} {l : Live}

/-! ### Reports -/

theorem law_chosen (h : LoadsLaw x y b s) : LoadsLaw x y b s.chosen :=
  LoadsLaw.congr (s := s) sameView_rfl h

theorem cuttable_iff (s : State) (c : LoadConfig) : s.cuttable c = true ↔
    ((c.authority = .governed ∧ 1 ≤ c.tier) ∧ s.control.mode ≠ .bypass) ∧
      (s.cutTier ≤ c.tier ∨ s.control.mode = .storage) := by
  unfold State.cuttable; simp

/-- A report's effect on the laws: they hold, or the load is ON and its held request is still to be decided. -/
def Heard (x : Option LoadNo) (n : LoadNo) (b : Bool) (t : State) : Prop :=
  LoadsLaw x none b t ∨ (LoadsLaw x (some n) b t ∧ t.state? n = some .on)

theorem same_live (hl : s.live? n = some l) {l' : Live} (h : s.live? n = some l') : l' = l := by
  rw [hl] at h; injection h with h; exact h.symm

theorem law_entered (hl : s.live? n = some l) (level : Option Nat) (out : stackState l.run.state = false)
    (h : LoadsLaw x none b s) : LoadsLaw x (some n) b (s.changeRun n (Runtime.reportedOn level)) := by
  refine h.changeRun n _ (fun l' h' => ?_) (fun l' _ hr => absurd hr (by simp [Runtime.reportedOn, Runtime.followLevel, Runtime.enterOn]))
    (fun hh => absurd rfl hh) (fun _ _ _ => by simp)
  rw [same_live hl h', out]; rfl

theorem heard_entered (hl : s.live? n = some l) (level : Option Nat) (out : stackState l.run.state = false)
    (h : LoadsLaw x none b s) : Heard x n b (s.changeRun n (Runtime.reportedOn level)) :=
  .inr ⟨law_entered hl level out h, state?_changeRun_self _ hl⟩

/-- A shed leaves its load neither ON nor RESTORING. -/
theorem state?_shedRecord_out {n : LoadNo} {l : Live} (cause : ShedCause) (hl : s.live? n = some l) :
    (s.shedRecord n l cause).state? n ≠ some .on := by
  unfold State.shedRecord
  split
  · rw [state?_dropWithdrawn hl]; simp
  · split
    · show ((s.changeRun n _).setOwed n _).state? n ≠ _
      rw [state?_setOwed, state?_changeRun_self _ hl]; simp [Runtime.becomeWinding]
    · split
      · show ((s.changeRun n _).commandOff n).state? n ≠ _
        rw [(sameView_commandOff ..).state, state?_changeRun_self _ hl]; simp [Runtime.becomeShed]
      · rw [(sameView_commandOff ..).state, state?_changeRun_self _ hl]
        rcases goOff_state l.config l.run.decided with h | h <;> simp [h]

theorem state?_restoreEnded (s : State) (m n : LoadNo) : (s.restoreEnded m).state? n = s.state? n := by
  unfold State.restoreEnded
  split <;> rfl

theorem law_shedPardoned (cause : ShedCause) (hl : s.live? n = some l) (hs : l.sheddable = true)
    (mode : s.control.mode ≠ .bypass) (h : LoadsLaw x (some n) b s) :
    LoadsLaw x none b (s.shedOne n cause) := by
  refine (law_shedOne n cause mode h).unpardon fun _ st hst => ?_
  have he : (s.shedOne n cause).state? n = (s.shedRecord n l cause).state? n := by
    unfold State.shedOne
    rw [hl]; simp only [hs, if_true]
    rw [(talk_reportDirect ..).sameView.state, state?_restoreEnded]
  rw [he] at hst
  exact ⟨fun e => state?_shedRecord_out cause hl (by rw [hst, e]),
    fun e => state?_shedRecord cause hl (by rw [hst, e])⟩

theorem heard_arrives (hl : s.live? n = some l) (level : Option Nat) (out : stackState l.run.state = false)
    (h : LoadsLaw x none b s) : Heard x n b (if s.cuttable l.config then
      (s.changeRun n (Runtime.reportedOn level)).shedOne n (s.shedCause l.config)
      else s.changeRun n (Runtime.reportedOn level)) := by
  split
  · rename_i hc
    obtain ⟨⟨hg, hm⟩, _⟩ := (cuttable_iff s l.config).1 hc
    have hl' : (s.changeRun n (Runtime.reportedOn level)).live? n
        = some { l with run := l.run.reportedOn level l.config } := by
      rw [live?_changeRun, if_pos rfl, hl]; rfl
    exact .inl (law_shedPardoned _ hl' ((sheddable_iff _).2 ⟨hg, .inl rfl⟩) hm (law_entered hl level out h))
  · exact heard_entered hl level out h

theorem law_enforce (hl : s.live? n = some l) (level : Option Nat) (hc : s.cuttable l.config = true)
    (out : stackState l.run.state = false) (h : LoadsLaw x none b s) :
    LoadsLaw x none b (s.enforce n l level) := by
  obtain ⟨⟨hg, hm⟩, _⟩ := (cuttable_iff s l.config).1 hc
  have v := sameView_setOwed s n (some .off)
  have h1 := h.congr v
  have hst : (s.setOwed n (some .off)).state? n = some l.run.state := (v.state n).trans (state?_of hl)
  have out' : ∀ l', (s.setOwed n (some .off)).live? n = some l' → stackState l'.run.state = false :=
    fun l' h' => by
      rw [state?_of h'] at hst; injection hst with hst; rw [hst]; exact out
  unfold State.enforce
  dsimp only
  refine (talk_raise ..).law ?_
  split
  · refine law_chosen ?_
    refine h1.join n _ rfl _ (fun l' h' => ⟨rfl, out' l' h'⟩) ?_ (fun c hc' => ?_) hm
    · cases h2 : (s.setOwed n (some .off)).live? n with
      | some _ => rfl
      | none => simp [State.state?, h2] at hst
    · rw [v.config, config?_of hl] at hc'; injection hc' with hc'; subst hc'; exact hg
  · exact law_settle h1 out' plain_goOff

theorem heard_onEffect (hl : s.live? n = some l) (level : Option Nat) (h : LoadsLaw x none b s) :
    Heard x n b (s.onEffect n l level) := by
  unfold State.onEffect
  dsimp only
  split
  · exact heard_arrives hl _ (by simp [*, stackState]) h
  · exact heard_arrives hl _ (by simp [*, stackState]) h
  · split
    · exact .inl (law_enforce hl level ‹_› (by simp [*, stackState]) h)
    · exact heard_entered hl _ (by simp [*, stackState]) h
  · split
    · exact .inl (law_enforce hl level ‹_› (by simp [*, stackState]) h)
    · exact heard_entered hl _ (by simp [*, stackState]) h
  · exact .inl (h.congr (sameView_changeRun n fun _ _ => rfl))
  · split
    · refine .inl (LoadsLaw.restoreEnded (law_settle h (fun l' h' => ?_) plain_goOff) n ?_)
      · rw [same_live hl h']; simp [*, stackState]
      · rw [state?_changeRun_self _ hl]
        rcases goOff_state l.config l.run with h | h <;> simp [h]
    · refine .inr ⟨(law_entered hl _ (by simp [*, stackState]) h).restoreEnded n ?_, ?_⟩
      · rw [state?_changeRun_self _ hl]; simp [Runtime.reportedOn, Runtime.followLevel, Runtime.enterOn]
      · rw [state?_restoreEnded, state?_changeRun_self _ hl]; rfl
  · refine .inl ((talk_raise ..).law (LoadsLaw.congr (sameView_setOwed ..) (LoadsLaw.congr ?_ h)))
    exact sameView_changeRun n fun _ _ => rfl
  · exact .inl h

theorem law_windDownEnds (hl : s.live? n = some l) (hw : l.run.state = .winding) (h : LoadsLaw x y b s) :
    LoadsLaw x y b (s.windDownEnds n l) := by
  unfold State.windDownEnds
  split
  · refine h.changeRun n _ (fun l' h' => ?_) (fun l' _ hr => absurd hr (by simp [Runtime.becomeShed]))
      (fun _ l' _ _ => by simp [Runtime.becomeShed]) (fun _ _ => id)
    rw [same_live hl h', hw]; rfl
  · refine h.leave n _ (fun l' _ => (plain_goOff _ _).1) (fun l' _ hr => absurd hr (plain_goOff _ _).2.2)
      (fun _ l' _ _ => (plain_goOff _ _).2) (fun _ _ => id)

theorem law_offEffect (hl : s.live? n = some l) (h : LoadsLaw x y b s) :
    LoadsLaw x y b (s.offEffect n l) := by
  unfold State.offEffect
  split
  · exact law_settle h (fun l' h' => by rw [same_live hl h']; simp [*, stackState]) plain_goOff
  · refine LoadsLaw.restoreEnded (law_settle h (fun l' h' => ?_) fun _ r => plain_becomeOff r) n ?_
    · rw [same_live hl h']; simp [*, stackState]
    · rw [state?_changeRun_self _ hl]; simp [Runtime.becomeOff]
  · exact law_windDownEnds hl ‹_› h
  · exact law_settle h (fun l' h' => by rw [same_live hl h']; simp [*, stackState]) fun _ r => plain_becomeOff r
  · exact law_settle h (fun l' h' => by rw [same_live hl h']; simp [*, stackState]) fun _ r => plain_becomeOff r
  all_goals exact h

theorem law_windingEffect (hl : s.live? n = some l) (h : LoadsLaw x y b s) :
    LoadsLaw x y b (s.windingEffect n l) := by
  unfold State.windingEffect
  split
  · exact law_settle h (fun l' h' => by rw [same_live hl h']; simp [*, stackState]) fun _ r => plain_becomeOff r
  · exact law_settle h (fun l' h' => by rw [same_live hl h']; simp [*, stackState]) fun _ r => plain_becomeOff r
  · split
    · refine LoadsLaw.restoreEnded (law_settle h (fun l' h' => ?_) fun _ r => plain_becomeOff r) n ?_
      · rw [same_live hl h']; simp [*, stackState]
      · rw [state?_changeRun_self _ hl]; simp [Runtime.becomeOff]
    · exact h
  all_goals exact h

theorem law_faultEffect (hl : s.live? n = some l) (h : LoadsLaw x y b s) :
    LoadsLaw x y b (s.faultEffect n) := by
  unfold State.faultEffect
  dsimp only
  refine (talk_raise ..).law (law_decideHeld n _ (LoadsLaw.restoreEnded ?_ n ?_))
  · exact h.leave n _ (fun l' _ => rfl) (fun l' _ hr => absurd hr (by simp [Runtime.becomeOff]))
      (fun _ l' _ _ => by simp [Runtime.becomeOff]) (fun _ _ => id)
  · have hl' : (s.unstack n).live? n = some l := hl
    rw [state?_changeRun_self _ hl']; simp [Runtime.becomeOff]

/-- A report that leaves the load ON decides its held request; after any other report the load does not
stand ON with one. -/
theorem law_decideOnReport (h : Heard x n b s) : LoadsLaw x none b (s.decideOnReport n) := by
  have hp : LoadsLaw x (some n) b s := h.elim (·.pardon n) (·.1)
  unfold State.decideOnReport
  split
  · rename_i e l _ hl
    split
    · split
      · exact (talk_answerSwitch ..).law (hp.unholdPardoned.congr (sameView_forwardToOn ..))
      · refine (law_forwardPass _ _ ((talk_answerSwitch ..).law hp.unholdPardoned)).unpardonGone ?_
        rw [held_forwardPass, (talk_answerSwitch ..).sameView.held]; exact not_held_unhold s _
      · exact law_decideHeldPardoned n _ hp
    · rename_i hne
      rcases h with h | ⟨_, h⟩
      · exact h
      · rw [state?_of hl] at h; injection h with h; exact absurd h hne
  · rename_i hno
    refine hp.unpardon fun hm => ?_
    cases hh : s.heldFor n with
    | none => exact absurd hm (heldFor_none hh)
    | some e =>
      cases hl : s.live? n with
      | none =>
        obtain ⟨st, hst, _⟩ := hp.waiting n hm
        simp [State.state?, hl] at hst
      | some l => exact absurd hl (hno e l hh)

theorem acts_enforce (s : State) (n : LoadNo) (l : Live) (level : Option Nat) : Acts s (s.enforce n l level) := by
  unfold State.enforce
  dsimp only
  refine Acts.trans ?_ (talk_raise ..).acts
  split
  · exact ((acts_setOwed s n _).trans (acts_changeRun ..)).trans
      (Acts.trans (t := State.push _ _) (acts_push ..) ⟨rfl, rfl, rfl, rfl, rfl, id, id, id, fun _ => rfl, rfl, rfl, rfl, rfl, rfl, rfl⟩)
  · exact (acts_setOwed s n _).trans (acts_changeRun ..)

theorem acts_onEffect (s : State) (n : LoadNo) (l : Live) (level : Option Nat) : Acts s (s.onEffect n l level) := by
  unfold State.onEffect
  dsimp only
  split
  · split
    · exact (acts_changeRun ..).trans (acts_shedOne ..)
    · exact acts_changeRun ..
  · split
    · exact (acts_changeRun ..).trans (acts_shedOne ..)
    · exact acts_changeRun ..
  · split
    · exact acts_enforce ..
    · exact acts_changeRun ..
  · split
    · exact acts_enforce ..
    · exact acts_changeRun ..
  · exact acts_changeRun ..
  · split
    · exact (acts_changeRun ..).trans (acts_restoreEnded ..)
    · exact (acts_changeRun ..).trans (acts_restoreEnded ..)
  · exact ((acts_changeRun ..).trans (acts_setOwed ..)).trans (talk_raise ..).acts
  · exact Acts.refl s

theorem acts_windDownEnds (s : State) (n : LoadNo) (l : Live) : Acts s (s.windDownEnds n l) := by
  unfold State.windDownEnds
  split
  · exact acts_changeRun ..
  · exact (acts_unstack ..).trans (acts_changeRun ..)

theorem acts_offEffect (s : State) (n : LoadNo) (l : Live) : Acts s (s.offEffect n l) := by
  unfold State.offEffect
  split
  · exact acts_changeRun ..
  · exact (acts_changeRun ..).trans (acts_restoreEnded ..)
  · exact acts_windDownEnds ..
  · exact acts_changeRun ..
  · exact acts_changeRun ..
  all_goals exact Acts.refl s

theorem acts_windingEffect (s : State) (n : LoadNo) (l : Live) : Acts s (s.windingEffect n l) := by
  unfold State.windingEffect
  split
  · exact acts_changeRun ..
  · exact acts_changeRun ..
  · split
    · exact (acts_changeRun ..).trans (acts_restoreEnded ..)
    · exact Acts.refl s
  all_goals exact Acts.refl s

theorem acts_faultEffect (s : State) (n : LoadNo) : Acts s (s.faultEffect n) :=
  (((acts_unstack ..).trans (acts_changeRun ..)).trans (acts_restoreEnded ..)).trans
    ((acts_decideHeld ..).trans (talk_raise ..).acts)

theorem acts_decideOnReport (s : State) (n : LoadNo) : Acts s (s.decideOnReport n) := by
  unfold State.decideOnReport
  split
  · split
    · split
      · exact ((acts_unhold ..).trans (acts_forwardToOn ..)).trans (talk_answerSwitch ..).acts
      · exact ((acts_unhold ..).trans (talk_answerSwitch ..).acts).trans (acts_forwardPass ..)
      · exact acts_decideHeld ..
    · exact Acts.refl s
  · exact Acts.refl s

end Sys2Proof.Laws
end

