-- ==== Sys2Proof/Laws/Publish.lean ====
section
/-! SUPPORT. Publishing and retiring keep the laws of the stack, the restore and the queue. -/

namespace Sys2Proof.Laws

set_option Elab.async false

open Sys2Proof.Machine

variable {x y : Option LoadNo} {b : Bool} {s t : State} {n : LoadNo} {l : Live}

/-! ### A slot replaced -/

theorem state?_setSlot (s : State) (n m : LoadNo) (slot : Slot) :
    (s.setSlot n slot).state? m = if m = n then slot.live.map (·.run.state) else s.state? m := by
  unfold State.state?; rw [live?_setSlot]; split <;> rfl

theorem config?_setSlot (s : State) (n m : LoadNo) (slot : Slot) :
    config? (s.setSlot n slot) m = if m = n then slot.live.map (·.config) else config? s m := by
  unfold config?; rw [live?_setSlot]; split <;> rfl

/-- A slot whose load stays in the stack, or out of it, keeps the laws but for what its configuration
makes of the stack's. -/
theorem LoadsLaw.setSlot {n : LoadNo} (h : LoadsLaw none y b s) (slot : Slot)
    (stack : (slot.live.map (·.run.state)).any stackState = (s.state? n).any stackState)
    (seq : slot.live.map (·.run.state) = some .restoring → s.ladder.seq = .restoring n)
    (waits : n ∈ s.heldLoads → ∃ st, slot.live.map (·.run.state) = some st ∧
      (some n ≠ y → st ≠ .on ∧ st ≠ .restoring)) :
    LoadsLaw (some n) y b (s.setSlot n slot) where
  once := h.once
  exact m := by
    show m ∈ s.stackLoads ↔ _
    rw [state?_setSlot]
    split
    · rename_i e; rw [e, stack]; exact h.exact n
    · exact h.exact m
  governed m c hm hx hc := by
    have hmn : m ≠ n := fun e => hx (by rw [e])
    rw [config?_setSlot, if_neg hmn] at hc
    exact h.governed m c hm (by simp) hc
  bypass := h.bypass
  restore m hm := by
    show s.ladder.seq = _
    rw [state?_setSlot] at hm
    split at hm
    · subst_vars; exact seq hm
    · exact h.restore m hm
  heldOnce := h.heldOnce
  waiting m hm := by
    rw [state?_setSlot]
    split
    · subst_vars; exact waits hm
    · exact h.waiting m hm
  starting := h.starting

/-- A draft shows the laws nothing. -/
theorem sameView_setDraft (s : State) (n : LoadNo) (d : Option LoadConfig) : SameView s (s.setDraft n d) :=
  ⟨fun m => by
     unfold State.setDraft; rw [state?_setSlot]; split
     · subst_vars; rfl
     · rfl,
   fun m => by
     unfold State.setDraft; rw [config?_setSlot]; split
     · subst_vars; rfl
     · rfl,
   rfl, rfl, rfl, rfl⟩

/-! ### A new target -/

theorem sameView_leaveCensus (s : State) (n : LoadNo) : SameView s (s.leaveCensus n) := sameView_rfl

theorem sameView_joinCensus (s : State) (n : LoadNo) : SameView s (s.joinCensus n) := by
  unfold State.joinCensus
  split
  · exact sameView_rfl
  · exact SameView.refl s

theorem law_bindTarget (n : LoadNo) (out : ∀ l, s.live? n = some l → stackState l.run.state = false)
    (h : LoadsLaw x y b s) : LoadsLaw x y b (s.bindTarget n) := by
  unfold State.bindTarget
  split
  · refine LoadsLaw.congr ((sameView_oweQuery ..).trans (sameView_joinCensus ..)) ?_
    exact law_settle h out fun _ _ => by simp [stackState]
  · refine (talk_reportBinding ..).law (LoadsLaw.congr (sameView_leaveCensus ..) ?_)
    refine LoadsLaw.congr (sameView_setOutput ..) (law_settle h out fun _ _ => by simp [stackState])
  · exact h

theorem sameView_releaseTarget (s : State) (t : Target) : SameView s (s.releaseTarget t) := by
  cases t
  · exact SameView.refl s
  · exact sameView_setOutput ..

theorem isDown_out {st : LoadState} (h : st.isDown = true) : stackState st = false := by
  cases st <;> simp_all [LoadState.isDown, stackState]

theorem state?_some_live {st : LoadState} (h : s.state? n = some st) :
    ∀ l, s.live? n = some l → l.run.state = st := fun l hl => by
  rw [state?_of hl] at h; injection h

theorem law_retarget (n : LoadNo) (old new : LoadConfig)
    (down : old.target ≠ new.target → ∀ l, s.live? n = some l → stackState l.run.state = false)
    (h : LoadsLaw x none b s) : LoadsLaw x none b (s.retarget n old new) := by
  unfold State.retarget
  split
  · exact h
  · rename_i hne
    have v0 : SameView s (s.changeRun n fun _ r => { r with owed := none, answer := none }) :=
      sameView_changeRun n fun _ _ => rfl
    have v := v0.trans (sameView_releaseTarget _ old.target)
    have h1 := law_bindTarget n (fun l' h' => ?_) (h.congr v)
    · dsimp only
      split
      · exact law_drawFell h1
      · exact h1
    have hs : s.state? n = some l'.run.state := by rw [← v.state, state?_of h']
    cases hl : s.live? n with
    | none => simp [State.state?, hl] at hs
    | some l =>
      rw [state?_of hl] at hs; injection hs with hs
      rw [← hs]; exact down hne l hl

/-! ### R15, R16 and R17 -/

theorem sameView_modifyEntry (s : State) (n : LoadNo) {f : StackEntry → StackEntry}
    (hf : ∀ e, (f e).load = e.load) : SameView s (s.modifyEntry n f) :=
  ⟨fun _ => rfl, fun _ => rfl, by
     unfold State.stackLoads State.modifyEntry
     simp only [List.map_map]
     apply List.map_congr_left
     intro e _
     simp only [Function.comp]
     split <;> simp [hf],
   rfl, rfl, rfl⟩

theorem followDimmable_load (old new : LoadConfig) (e : StackEntry) :
    (e.followDimmable old new).load = e.load := by
  unfold StackEntry.followDimmable
  split
  · rfl
  · split <;> rfl

theorem followDimmable_state (old new : LoadConfig) (r : Runtime) :
    (r.followDimmable old new).state = r.state := by
  unfold Runtime.followDimmable
  repeat' split
  all_goals rfl

theorem rebound_state (c : LoadConfig) (r : Runtime) :
    (r.rebound c).state = r.state ∨ (r.state = .lockout ∧ (r.rebound c).state = .off) := by
  unfold Runtime.rebound
  dsimp only
  split
  · rename_i h; exact .inr ⟨h.1, rfl⟩
  · exact .inl rfl

theorem law_rebindRecord (n : LoadNo) (old new : LoadConfig) (h : LoadsLaw x none b s) :
    LoadsLaw x none b (s.rebindRecord n old new) := by
  unfold State.rebindRecord
  split
  · rename_i l hl
    dsimp only
    have h1 : LoadsLaw x none b ((((s.changeRun n fun c r => (r.rebound c).followDimmable old new).modifyEntry n
        (StackEntry.followDimmable old new)).reportDirect n l.run)) := by
      refine (talk_reportDirect ..).law (LoadsLaw.congr (sameView_modifyEntry _ _ (followDimmable_load _ _)) ?_)
      refine h.changeRun n _ (fun l' h' => ?_) (fun l' h' hr => ?_) (fun _ l' h' hm => ?_) (fun _ _ => id)
      · rw [followDimmable_state]
        rcases rebound_state l'.config l'.run with e | ⟨e1, e2⟩
        · rw [e]
        · rw [e1, e2]; rfl
      · rw [followDimmable_state] at hr
        rcases rebound_state l'.config l'.run with e | ⟨e1, e2⟩
        · rw [e] at hr; exact h.restore n (by rw [state?_of h', hr])
        · rw [e2] at hr; simp at hr
      · rw [followDimmable_state]
        rcases rebound_state l'.config l'.run with e | ⟨e1, e2⟩
        · rw [e]
          obtain ⟨st, hst, hw⟩ := h.waiting n hm
          rw [state?_of h'] at hst; injection hst with hst; subst hst
          exact hw (by simp)
        · rw [e2]; simp
    split
    · exact law_reportLockout n h1
    · exact h1
  · exact h

theorem law_publishUnstacks (n : LoadNo) (h : LoadsLaw x y b s) : LoadsLaw x y b (s.publishUnstacks n) := by
  unfold State.publishUnstacks
  split
  · split
    · exact (talk_reportDirect ..).law (law_leaveStack n h)
    · exact h
  · exact h

theorem law_changeDraw (n : LoadNo) (old new : LoadConfig) (h : LoadsLaw x none b s) :
    LoadsLaw x none b (s.changeDraw n old new) := by
  unfold State.changeDraw
  split
  · exact law_drawFell h
  · exact h

theorem law_changeRestore (n : LoadNo) (old new : LoadConfig) (h : LoadsLaw x none b s) :
    LoadsLaw x none b (s.changeRestore n old new) := by
  unfold State.changeRestore
  split
  · exact law_publishUnstacks n h
  · exact h

theorem law_fieldChanges (n : LoadNo) (old new : LoadConfig) (h : LoadsLaw x none b s) :
    LoadsLaw x none b (s.fieldChanges n old new) := by
  have h2 := law_changeRestore n old new (law_changeDraw n old new h)
  unfold State.fieldChanges State.changeTier
  split
  · exact law_publishUnstacks n h2
  · exact h2

theorem law_publishShed (n : LoadNo) (new : LoadConfig) (h : LoadsLaw x none b s) :
    LoadsLaw x none b (s.publishShed n new) := by
  unfold State.publishShed
  split
  · rename_i hc
    refine law_shed _ n ?_ h
    unfold State.cuttableOn at hc
    cases hl : s.live? n with
    | none => simp [hl] at hc
    | some l => simp [hl] at hc; exact ((cuttable_iff s l.config).1 hc.2).1.2
  · exact h

theorem law_forceOff (n : LoadNo) (h : LoadsLaw x none b s) : LoadsLaw x none b (s.forceOff n) := by
  unfold State.forceOff
  split
  · rename_i l hl
    refine law_reportDraw _ ((talk_reportDirect ..).law (LoadsLaw.congr (sameView_commandOff ..) ?_))
    split
    · exact law_leaveStack n h
    · exact law_settle h (fun l' h' => by rw [same_live hl h']; simp [*, stackState]) plain_goOff
    all_goals first | exact h | exact law_leaveStack n h
  · exact h

theorem law_authorityChange (n : LoadNo) (old new : LoadConfig) (h : LoadsLaw x none b s) :
    LoadsLaw x none b (s.authorityChange n old new) := by
  unfold State.authorityChange
  split
  · exact law_forceOff n h
  · split
    · exact law_publishUnstacks n h
    · exact h

/-! ### What a publish leaves of the stack -/

theorem shrinks_publishUnstacks (s : State) (n : LoadNo) : Shrinks s (s.publishUnstacks n) := by
  unfold State.publishUnstacks
  split
  · split
    · exact (shrinks_unstack s n).trans (t := s.unstack n)
        (shrinks_of (talk_reportDirect (s.leaveStack n) ..).sameView.stack)
    · exact shrinks_of rfl
  · exact shrinks_of rfl

theorem stacked_iff (s : State) (n : LoadNo) : s.stacked n = true ↔ n ∈ s.stackLoads := by
  unfold State.stacked State.stackLoads
  simp

theorem not_live_out (h : LoadsLaw x y b s) (hl : s.live? n = none) : n ∉ s.stackLoads := fun hm => by
  have := (h.exact n).1 hm
  simp [State.state?, hl] at this

theorem gone_publishUnstacks (h : LoadsLaw x y b s) : n ∉ (s.publishUnstacks n).stackLoads := by
  unfold State.publishUnstacks
  split
  · split
    · rw [(talk_reportDirect ..).sameView.stack]
      show n ∉ (s.unstack n).stackLoads
      rw [stackLoads_unstack]; simp
    · rename_i hs; exact fun hm => hs ((stacked_iff s n).2 hm)
  · exact not_live_out h ‹_›

theorem shrinks_bindTarget (s : State) (n : LoadNo) : Shrinks s (s.bindTarget n) := by
  unfold State.bindTarget
  split
  · exact shrinks_of ((sameView_oweQuery ..).trans (sameView_joinCensus ..)).stack
  · exact shrinks_of (talk_reportBinding ..).sameView.stack
  · exact shrinks_of rfl

theorem shrinks_retarget (s : State) (n : LoadNo) (old new : LoadConfig) : Shrinks s (s.retarget n old new) := by
  unfold State.retarget
  split
  · exact shrinks_of rfl
  · have h1 : Shrinks s (((s.changeRun n fun _ r => { r with owed := none, answer := none }).releaseTarget
        old.target).bindTarget n) :=
      Shrinks.trans (shrinks_of (sameView_releaseTarget (s.changeRun n _) old.target).stack)
        (shrinks_bindTarget _ n)
    dsimp only
    split
    · exact h1.trans (shrinks_blocksTake _ _ _)
    · exact h1

theorem shrinks_rebindRecord (s : State) (n : LoadNo) (old new : LoadConfig) :
    Shrinks s (s.rebindRecord n old new) := by
  unfold State.rebindRecord
  split
  · rename_i l _
    dsimp only
    have h1 : Shrinks s (((s.changeRun n fun c r => (r.rebound c).followDimmable old new).modifyEntry n
        (StackEntry.followDimmable old new)).reportDirect n l.run) :=
      shrinks_of ((talk_reportDirect ..).sameView.stack.trans
        (sameView_modifyEntry (s.changeRun n _) n (followDimmable_load _ _)).stack)
    split
    · exact h1.trans (shrinks_blocksTake _ _ _)
    · exact h1
  · exact shrinks_of rfl

theorem shrinks_fieldChanges (s : State) (n : LoadNo) (old new : LoadConfig) :
    Shrinks s (s.fieldChanges n old new) := by
  have h1 : Shrinks s (s.changeDraw n old new) := by
    unfold State.changeDraw
    split
    · exact shrinks_blocksTake _ _ _
    · exact shrinks_of rfl
  have h2 : Shrinks (s.changeDraw n old new) ((s.changeDraw n old new).changeRestore n old new) := by
    unfold State.changeRestore
    split
    · exact shrinks_publishUnstacks _ _
    · exact shrinks_of rfl
  refine (h1.trans h2).trans ?_
  unfold State.fieldChanges State.changeTier
  split
  · exact shrinks_publishUnstacks _ _
  · exact shrinks_of rfl

theorem gone_fieldChanges (old : LoadConfig) {new : LoadConfig} (h : LoadsLaw x none b s) (ht : new.tier = 0) :
    n ∉ (s.fieldChanges n old new).stackLoads := by
  unfold State.fieldChanges State.changeTier
  rw [if_pos ht]
  exact gone_publishUnstacks (law_changeRestore n old new (law_changeDraw n old new h))

theorem shrinks_forceOff (s : State) (n : LoadNo) : Shrinks s (s.forceOff n) := by
  unfold State.forceOff
  split
  · refine Shrinks.trans ?_ (shrinks_reportDraw _ _)
    refine Shrinks.trans (Shrinks.trans ?_ (shrinks_of (sameView_commandOff _ n).stack))
      (shrinks_of (talk_reportDirect ..).sameView.stack)
    split
    all_goals first | exact shrinks_of rfl | exact shrinks_unstack s n
  · exact shrinks_of rfl

theorem gone_forceOff (h : LoadsLaw x y b s) : n ∉ (s.forceOff n).stackLoads := by
  unfold State.forceOff
  split
  · rename_i l hl
    dsimp only
    intro hm
    have hm := shrinks_reportDraw _ _ n hm
    rw [(talk_reportDirect ..).sameView.stack, (sameView_commandOff ..).stack] at hm
    have hin : n ∈ s.stackLoads → stackState l.run.state = true := fun hk => by
      have := (h.exact n).1 hk
      rw [state?_of hl] at this; simpa using this
    have hout : n ∉ (s.unstack n).stackLoads := by rw [stackLoads_unstack]; simp
    revert hm hin
    cases l.run.state with
    | shed => exact fun hm _ => hout hm
    | winding => exact fun hm _ => hout hm
    | _ => exact fun hm hin => absurd (hin hm) (by simp [stackState])
  · exact not_live_out h ‹_›

theorem shrinks_authorityChange (s : State) (n : LoadNo) (old new : LoadConfig) :
    Shrinks s (s.authorityChange n old new) := by
  unfold State.authorityChange
  split
  · exact shrinks_forceOff s n
  · split
    · exact shrinks_publishUnstacks s n
    · exact shrinks_of rfl

/-! ### The tables, mode and lists -/

theorem acts_releaseTarget (s : State) (t : Target) : Acts s (s.releaseTarget t) := by
  cases t
  · exact Acts.refl s
  · exact acts_setOutput ..

theorem acts_bindTarget (s : State) (n : LoadNo) : Acts s (s.bindTarget n) := by
  unfold State.bindTarget
  split
  · exact ((acts_changeRun ..).trans (acts_oweQuery ..)).trans (acts_joinCensus ..)
  · exact (((acts_changeRun ..).trans (acts_setOutput ..)).trans (acts_leaveCensus ..)).trans
      (talk_reportBinding ..).acts
  · exact Acts.refl s

theorem acts_retarget (s : State) (n : LoadNo) (old new : LoadConfig) : Acts s (s.retarget n old new) := by
  unfold State.retarget
  split
  · exact Acts.refl s
  · have h1 := ((acts_changeRun s n fun _ r => { r with owed := none, answer := none }).trans
      (acts_releaseTarget _ old.target)).trans (acts_bindTarget _ n)
    dsimp only
    split
    · exact h1.trans (acts_drawFell _)
    · exact h1

theorem acts_rebindRecord (s : State) (n : LoadNo) (old new : LoadConfig) :
    Acts s (s.rebindRecord n old new) := by
  unfold State.rebindRecord
  split
  · dsimp only
    split
    · exact (((acts_changeRun ..).trans (acts_modifyEntry ..)).trans (talk_reportDirect ..).acts).trans
        (acts_reportLockout ..)
    · exact ((acts_changeRun ..).trans (acts_modifyEntry ..)).trans (talk_reportDirect ..).acts
  · exact Acts.refl s

theorem acts_publishUnstacks (s : State) (n : LoadNo) : Acts s (s.publishUnstacks n) := by
  unfold State.publishUnstacks
  split
  · split
    · exact (acts_leaveStack ..).trans (talk_reportDirect ..).acts
    · exact Acts.refl s
  · exact Acts.refl s

theorem acts_fieldChanges (s : State) (n : LoadNo) (old new : LoadConfig) : Acts s (s.fieldChanges n old new) := by
  have h1 : Acts s (s.changeDraw n old new) := by
    unfold State.changeDraw
    split
    · exact acts_drawFell s
    · exact Acts.refl s
  have h2 : Acts (s.changeDraw n old new) ((s.changeDraw n old new).changeRestore n old new) := by
    unfold State.changeRestore
    split
    · exact acts_publishUnstacks _ _
    · exact Acts.refl _
  refine (h1.trans h2).trans ?_
  unfold State.fieldChanges State.changeTier
  split
  · exact acts_publishUnstacks _ _
  · exact Acts.refl _

theorem acts_publishShed (s : State) (n : LoadNo) (new : LoadConfig) : Acts s (s.publishShed n new) := by
  unfold State.publishShed
  split
  · exact acts_shed ..
  · exact Acts.refl s

theorem acts_forceOff (s : State) (n : LoadNo) : Acts s (s.forceOff n) := by
  unfold State.forceOff
  split
  · refine Acts.trans (Acts.trans (Acts.trans ?_ (acts_commandOff ..)) (talk_reportDirect ..).acts) (acts_reportDraw ..)
    split
    all_goals first | exact Acts.refl s | exact acts_leaveStack s n | exact acts_changeRun ..
  · exact Acts.refl s

theorem acts_authorityChange (s : State) (n : LoadNo) (old new : LoadConfig) :
    Acts s (s.authorityChange n old new) := by
  unfold State.authorityChange
  split
  · exact acts_forceOff s n
  · split
    · exact acts_publishUnstacks s n
    · exact Acts.refl s

/-! ### A publish whole -/

theorem cuttableOn_config (hc : config? s n = some c) (h : s.cuttableOn n = true) :
    c.authority = .governed ∧ 1 ≤ c.tier := by
  unfold State.cuttableOn at h
  cases hl : s.live? n with
  | none => simp [hl] at h
  | some l =>
    rw [config?_of hl] at hc; injection hc with hc; subst hc
    simp [hl] at h; exact ((cuttable_iff s l.config).1 h.2).1.1

/-- What R15 to R19 make of a live load that has its new configuration. -/
theorem law_fielded {old new : LoadConfig}
    (down : old.target ≠ new.target → ∀ l, s.live? n = some l → stackState l.run.state = false)
    (h : LoadsLaw x none b s) :
    LoadsLaw x none b (((s.retarget n old new).rebindRecord n old new).fieldChanges n old new) :=
  law_fieldChanges n old new (law_rebindRecord n old new (law_retarget n old new down h))

theorem shrinks_fielded (s : State) (n : LoadNo) (old new : LoadConfig) :
    Shrinks s (((s.retarget n old new).rebindRecord n old new).fieldChanges n old new) :=
  ((shrinks_retarget s n old new).trans (shrinks_rebindRecord _ n old new)).trans (shrinks_fieldChanges _ n old new)

theorem acts_fielded (s : State) (n : LoadNo) (old new : LoadConfig) :
    Acts s (((s.retarget n old new).rebindRecord n old new).fieldChanges n old new) :=
  ((acts_retarget s n old new).trans (acts_rebindRecord _ n old new)).trans (acts_fieldChanges _ n old new)

theorem acts_publishLive (s : State) (n : LoadNo) (old new : LoadConfig) (r : Runtime) :
    Acts (s.installDraft n new r) (s.publishLive n old new r) := by
  unfold State.publishLive
  dsimp only
  refine Acts.trans ?_ (acts_blocksTake ..)
  refine Acts.trans (((acts_fielded _ n old new).trans (acts_publishShed _ n new)).trans
    (acts_authorityChange _ n old new)) ?_
  split
  · exact (talk_raise ..).acts
  · exact Acts.refl _

/-- A publish leaves its load in the stack only as a GOVERNED load of tier 1 or above (R16, R17, R88). -/
theorem law_publishLive {old new : LoadConfig} {l : Live} (hl : s.live? n = some l) (ho : l.config = old)
    (down : old.target ≠ new.target → stackState l.run.state = false)
    (h : LoadsLaw none none b s) : LoadsLaw none none b (s.publishLive n old new l.run) := by
  have was : n ∈ s.stackLoads → old.authority = .governed := fun hm =>
    (h.governed n old hm (by simp) (by rw [config?_of hl, ho])).1
  have hi : (s.installDraft n new l.run).live? n = some { config := new, run := l.run } := by
    unfold State.installDraft; rw [live?_setSlot, if_pos rfl]
  have h0 : LoadsLaw (some n) none b (s.installDraft n new l.run) := by
    refine h.setSlot _ ?_ ?_ ?_
    · rw [state?_of hl]; rfl
    · intro hr; exact h.restore n (by rw [state?_of hl]; simpa using hr)
    · intro hm
      obtain ⟨st, hst, hw⟩ := h.waiting n hm
      exact ⟨st, by rw [← hst, state?_of hl]; rfl, hw⟩
  have hf := law_fielded (new := new) (old := old) (fun hne l' hl' => by
    rw [hi] at hl'; injection hl' with hl'; subst hl'; exact down hne) h0
  have cf : config? (((s.installDraft n new l.run).retarget n old new |>.rebindRecord n old new).fieldChanges
      n old new) n = some new := by
    rw [(acts_fielded _ n old new).config, config?_of hi]
  have sf := shrinks_fielded (s.installDraft n new l.run) n old new
  have ci : config? (s.publishLive n old new l.run) n = some new := by
    rw [(acts_publishLive s n old new l.run).config, config?_of hi]
  have gf : new.tier = 0 → n ∉ (((s.installDraft n new l.run).retarget n old new
      |>.rebindRecord n old new).fieldChanges n old new).stackLoads := fun ht =>
    gone_fieldChanges old (law_rebindRecord n old new (law_retarget n old new (fun hne l' hl' => by
      rw [hi] at hl'; injection hl' with hl'; subst hl'; exact down hne) h0)) ht
  refine LoadsLaw.unexempt (n := n) ?_ fun hm c hc => ?_
  · unfold State.publishLive
    dsimp only
    refine law_blocksTake _ _ ?_
    have ha := law_authorityChange n old new (law_publishShed n new hf)
    split
    · exact (talk_raise ..).law ha
    · exact ha
  · rw [ci] at hc; injection hc with hc; subst hc
    unfold State.publishLive at hm
    dsimp only at hm
    generalize ((s.installDraft n new l.run).retarget n old new |>.rebindRecord n old new).fieldChanges n old new
      = f at *
    have hm := shrinks_blocksTake _ _ _ n hm
    have hm : n ∈ ((f.publishShed n new).authorityChange n old new).stackLoads := by
      split at hm
      · rw [(talk_raise ..).sameView.stack] at hm; exact hm
      · exact hm
    by_cases hcut : f.cuttableOn n = true
    · exact cuttableOn_config cf hcut
    · have hp : f.publishShed n new = f := by unfold State.publishShed; rw [if_neg hcut]
      rw [hp] at hm
      have hin := shrinks_authorityChange f n old new n hm
      refine ⟨?_, Nat.pos_of_ne_zero fun ht => gf ht hin⟩
      have hold := was (sf n hin)
      unfold State.authorityChange at hm
      split at hm
      · exact absurd hm (gone_forceOff hf)
      · rename_i hforce
        split at hm
        · exact absurd hm (gone_publishUnstacks hf)
        · rename_i hpass
          cases ha : new.authority with
          | governed => rfl
          | pass => exact absurd ⟨hold, ha⟩ hpass
          | forcedOff => simp [forces, hold, ha] at hforce

/-- A publish into a DRAFT-ONLY slot keeps the laws (R14). -/
theorem law_publishNew {c : LoadConfig} (hl : s.live? n = none) (h : LoadsLaw none none b s) :
    LoadsLaw none none b (s.publishNew n c) := by
  have hst : s.state? n = none := by unfold State.state?; rw [hl]; rfl
  have h0 : LoadsLaw (some n) none b
      (s.setSlot n { live := some { config := c, run := { state := .off } }, draft := none }) := by
    refine h.setSlot _ (by rw [hst]; rfl) (fun hr => by simp at hr) fun hm => ?_
    obtain ⟨st, hs, _⟩ := h.waiting n hm
    rw [hst] at hs; simp at hs
  unfold State.publishNew
  refine LoadsLaw.unexempt (n := n) (law_bindTarget n (fun l' hl' => ?_) h0) fun hm => ?_
  · rw [live?_setSlot, if_pos rfl] at hl'; injection hl' with hl'; subst hl'; rfl
  · have hm := shrinks_bindTarget _ n n hm
    exact absurd (show n ∈ s.stackLoads from hm) (not_live_out h hl)

theorem acts_publishNew (s : State) (n : LoadNo) (c : LoadConfig) :
    Acts (s.setSlot n { live := some { config := c, run := { state := .off } }, draft := none })
      (s.publishNew n c) := acts_bindTarget _ n

end Sys2Proof.Laws
end

