-- ==== Sys2Proof/Laws/Lawful.lean ====
section
/-! SUPPORT. Every command keeps the laws of `State.Lawful`: one lemma for each shared frame of a command and one for each command with work of its own. -/

namespace Sys2Proof.Laws

set_option Elab.async false

open Sys2Proof.Machine

variable {x y : Option LoadNo} {b : Bool} {s t : State} {n : LoadNo} {l : Live}

/-! ### The laws, the phase's aside -/

/-- The laws of a state but for that of the phase. -/
structure Sound (s : State) : Prop where
  ports : PortsFit s.ports
  hold : s.hold.length ≤ Config.holdDepth
  flags : s.FlagsLaw
  tables : s.TablesLaw
  loads : LoadsLaw none none true s

theorem lawful_iff (s : State) : s.Lawful ↔ Sound s ∧ s.PhaseLaw := by
  constructor
  · intro h
    exact ⟨⟨⟨h.bounded.replies, h.bounded.panelFifo, h.bounded.loadFifo⟩, h.bounded.hold, h.flags, h.tables,
      (loadsLaw_iff s).2 ⟨h.stack, h.restore, h.queue⟩⟩, h.phase⟩
  · rintro ⟨h, p⟩
    obtain ⟨a, b, c⟩ := (loadsLaw_iff s).1 h.loads
    exact ⟨⟨h.ports.replies, h.ports.panelFifo, h.ports.loadFifo, h.hold⟩, h.flags, h.tables, p, a, b, c⟩

theorem Sound.acts (h : Sound s) (a : Acts s t) (k : LoadsLaw none none true t) : Sound t where
  ports := a.ports h.ports
  hold := a.hold h.hold
  flags := a.flags h.flags
  tables :=
    { ladder := by rw [a.live]; exact h.tables.ladder
      settings := by rw [a.mgmt]; exact h.tables.settings
      saved := by rw [a.mgmt]; exact h.tables.saved
      stored := by rw [a.mgmt]; exact h.tables.stored }
  loads := k

/-- What acts within the tables and the mode, and keeps the laws of the loads, keeps them all. -/
theorem lawful_acts (h : s.Lawful) (a : Acts s t)
    (k : LoadsLaw none none true s → LoadsLaw none none true t) : t.Lawful := by
  obtain ⟨hs, hp⟩ := (lawful_iff s).1 h
  refine (lawful_iff t).2 ⟨hs.acts a (k hs.loads), ?_⟩
  unfold State.PhaseLaw
  rw [a.phase, a.mode]; exact hp

theorem lawful_view (h : s.Lawful) (a : Acts s t) (v : SameView s t) : t.Lawful :=
  lawful_acts h a (LoadsLaw.congr v)

theorem lawful_talk (h : s.Lawful) (k : Talk s t) : t.Lawful := lawful_view h k.acts k.sameView

/-- A change of what no law looks at. -/
theorem lawful_aside (h : s.Lawful) (mgmt : t.mgmt = s.mgmt := by rfl)
    (live : t.ladder.live = s.ladder.live := by rfl) (phase : t.control.phase = s.control.phase := by rfl)
    (ports : t.ports = s.ports := by rfl) (flags : t.attention = s.attention := by rfl)
    (loads : t.loads.slots = s.loads.slots := by rfl)
    (stack : t.ladder.stack = s.ladder.stack := by rfl) (hold : t.hold = s.hold := by rfl)
    (seq : t.ladder.seq = s.ladder.seq := by rfl) (mode : t.control.mode = s.control.mode := by rfl) :
    t.Lawful := by
  have e : ∀ n, t.live? n = s.live? n := fun n => by unfold State.live?; rw [loads]
  have v : SameView s t := by
    refine ⟨fun n => ?_, fun n => ?_, ?_, ?_, seq, mode⟩
    · unfold State.state?; rw [e]
    · unfold config?; rw [e]
    · unfold State.stackLoads; rw [stack]
    · unfold State.heldLoads; rw [hold]
  obtain ⟨hs, hp⟩ := (lawful_iff s).1 h
  refine (lawful_iff t).2 ⟨⟨by rw [ports]; exact hs.ports, by rw [hold]; exact hs.hold, ?_, ?_,
    LoadsLaw.congr v hs.loads⟩, ?_⟩
  · have k := hs.flags
    unfold State.FlagsLaw at k ⊢
    rw [flags]; exact k
  · exact { ladder := by rw [live]; exact hs.tables.ladder
            settings := by rw [mgmt]; exact hs.tables.settings
            saved := by rw [mgmt]; exact hs.tables.saved
            stored := by rw [mgmt]; exact hs.tables.stored }
  · unfold State.PhaseLaw at hp ⊢
    rw [phase, mode]; exact hp

/-! ### Changes of mode and the census -/

theorem acts_changeMode (s : State) (new : Mode) : Acts (s.setMode new) (s.changeMode new) := by
  unfold State.changeMode
  have a1 : Acts (s.setMode new) (s.leaveFor new) := by
    unfold State.leaveFor
    split
    · exact acts_leaveStorage _
    · exact Acts.refl _
  have a3 (t : State) : Acts t (t.tellDepartures s new) := by
    unfold State.tellDepartures
    split
    · exact acts_reportFalls acts_drawFell _ _
    · exact Acts.refl _
  have a4 (t : State) : Acts t (t.gaspOnEntry new) := by
    unfold State.gaspOnEntry
    split
    · exact (acts_lastGasp _).trans (acts_reportFalls acts_drawFell _ _)
    · exact Acts.refl _
  exact (((a1.trans (acts_enterMode _ _)).trans (a3 _)).trans (a4 _)).trans (acts_blocksTake ..)

/-- A change of mode, outside a phase, keeps every law (R150). -/
theorem lawful_changeMode (new : Mode) (hn : new ≠ .starting) (h : Sound s) (hp : s.control.phase = none) :
    (s.changeMode new).Lawful := by
  have a := acts_changeMode s new
  have h1 : Sound (s.changeMode new) :=
    { ports := a.ports h.ports
      hold := a.hold h.hold
      flags := a.flags h.flags
      tables :=
        { ladder := by rw [a.live]; exact h.tables.ladder
          settings := by rw [a.mgmt]; exact h.tables.settings
          saved := by rw [a.mgmt]; exact h.tables.saved
          stored := by rw [a.mgmt]; exact h.tables.stored }
      loads := law_changeMode new hn h.loads }
  refine (lawful_iff _).2 ⟨h1, ?_⟩
  have hm : (s.changeMode new).control.mode = new := a.mode
  have hf : (s.changeMode new).control.phase = none := a.phase.trans hp
  unfold State.PhaseLaw
  rw [hm, hf]; simp [hn]

theorem startMode_ne (h : s.Lawful) : s.startMode ≠ .starting := by
  unfold State.startMode
  split
  · exact h.tables.settings.startMode
  · simp

/-- The end of a census keeps every law (R161, R163). -/
theorem lawful_censusCheck (h : s.Lawful) : s.censusCheck.Lawful := by
  unfold State.censusCheck
  split
  · exact h
  · split
    · split
      · exact h
      · have hs := ((lawful_iff s).1 h).1
        exact lawful_changeMode _ (startMode_ne h)
          ⟨hs.ports, hs.hold, hs.flags,
            ⟨hs.tables.ladder, hs.tables.settings, hs.tables.saved, hs.tables.stored⟩,
            LoadsLaw.congr (s := s) sameView_rfl hs.loads⟩ rfl
    · rename_i hm
      split
      · have hp : s.control.phase = none := by
          have := h.phase
          unfold State.PhaseLaw at this
          cases hph : s.control.phase with
          | none => rfl
          | some p => rw [hph] at this; exact absurd (this.1 rfl) hm
        exact lawful_aside (s := s) (t := s.stopCensus) h rfl rfl hp.symm
      · exact h

theorem acts_foldl_query (l : List LoadNo) (s : State) : Acts s (l.foldl State.oweQuery s) :=
  acts_foldl acts_oweQuery l s

theorem lawful_beginCensus (h : s.Lawful) : s.beginCensus.Lawful := by
  unfold State.beginCensus
  refine lawful_censusCheck (lawful_aside (s := s.moduleLoads.foldl State.oweQuery s) ?_)
  exact lawful_acts h (acts_foldl_query ..)
    (law_foldl (fun _ _ k => k.congr (sameView_oweQuery ..)) _)

/-! ### Frames and requests -/

/-- A received frame keeps the laws when what it does does (R137 to R140). -/
theorem lawful_takeFrame (line : Line) (src dst : Byte) (length : Nat) {k : State → State}
    (hk : ∀ t, t.Lawful → (k t).Lawful) (h : s.Lawful) : (s.takeFrame line src dst length k).Lawful := by
  unfold State.takeFrame
  split
  · exact h
  · have h1 := lawful_view h (acts_lineActivity s) (sameView_lineActivity s)
    dsimp only
    split
    · exact lawful_talk h1 (talk_raise ..)
    · split
      · exact lawful_talk h1 (talk_raise ..)
      · exact hk _ (lawful_view h1 (acts_learn ..) (sameView_learn ..))

/-- A MANAGE request keeps the laws when what it carries out does (R148, R164). -/
theorem lawful_manage {α : Type} (src code : Byte) (length : Nat) (write : Bool) {args : Option α}
    {act : α → State → State × Option Answer} (ha : ∀ a t, args = some a → t.Lawful → (act a t).1.Lawful)
    (h : s.Lawful) : (s.manage src code length write args act).Lawful := by
  unfold State.manage
  refine lawful_takeFrame .panel src _ length (fun t ht => ?_) h
  split
  · exact lawful_talk ht (talk_raise ..)
  · split
    · exact lawful_talk ht (talk_answerManage ..)
    · split
      · exact lawful_talk ht (talk_answerManage ..)
      · rename_i a _
        have h1 := ha a t rfl ht
        split
        · rename_i u r e2
          rw [e2] at h1
          exact lawful_talk h1 (talk_answerManage ..)
        · rename_i u e2
          rw [e2] at h1; exact h1

theorem lawful_unlessSaving {act : State → State × Option Answer} (ha : ∀ t, t.Lawful → (act t).1.Lawful)
    (h : s.Lawful) : (s.unlessSaving act).1.Lawful := by
  unfold State.unlessSaving
  split
  · exact h
  · exact ha s h

/-! ### The panel requests -/

theorem lawful_admission (src ch : Byte) (w : Wish) (h : s.Lawful) : (s.admission src ch w).Lawful :=
  lawful_acts h (acts_takeRequest _ _ _ fun n l => acts_decideRequest _ n l _ _ w)
    fun k => law_takeRequest _ _ k fun _ _ hl hm => law_decideRequest _ _ _ _ w hl hm k

theorem lawful_admissionOff (src ch : Byte) (h : s.Lawful) : (s.admissionOff src ch).Lawful :=
  lawful_acts h (acts_takeRequest _ _ _ fun n l => acts_decideOff _ n l _ _)
    fun k => law_takeRequest _ _ k fun _ _ hl _ => law_decideOff _ _ _ _ hl k

/-! ### The module reports -/

theorem lawful_takeReport (n : LoadNo) (kind level : Nat) {effect : State → Live → State}
    (ha : ∀ t l, Acts t (effect t l))
    (he : ∀ t l, t.live? n = some l → LoadsLaw none none true t → Heard none n true (effect t l))
    (h : s.Lawful) : (s.takeReport n kind level effect).Lawful := by
  unfold State.takeReport
  dsimp only
  split
  · exact h
  · rename_i l hl
    have v : SameView s ((s.changeRun n fun _ r => { r with answer := none }).leaveCensus n) :=
      SameView.trans (t := s.changeRun n fun _ r => { r with answer := none })
        (sameView_changeRun n fun _ _ => rfl) (sameView_leaveCensus ..)
    have h1 := lawful_view h ((acts_changeRun ..).trans (acts_leaveCensus ..)) v
    generalize (s.changeRun n fun _ r => { r with answer := none }).leaveCensus n = u at *
    have h2 : (((effect u l).decideOnReport n).reportDraw u).Lawful :=
      lawful_acts h1 (((ha u l).trans (acts_decideOnReport ..)).trans (acts_reportDraw ..))
        fun k => law_reportDraw _ (law_decideOnReport (he u l hl k))
    split
    · exact h2
    · exact lawful_censusCheck (lawful_talk h2 (talk_joinPanelFifo ..))

theorem lawful_takeState (src out : Byte) (kind level : Nat) {effect : State → LoadNo → Live → State}
    (ha : ∀ t n l, Acts t (effect t n l))
    (he : ∀ t n l, t.live? n = some l → LoadsLaw none none true t → Heard none n true (effect t n l))
    (h : s.Lawful) : (s.takeState src out kind level effect).Lawful := by
  unfold State.takeState
  split
  · exact h
  · split
    · exact h
    · exact lawful_takeReport _ _ _ (fun t l => ha t _ l) (fun t l => he t _ l) h

/-! ### The Load Table -/

theorem lawful_setDraft (n : LoadNo) (d : Option LoadConfig) (h : s.Lawful) : (s.setDraft n d).Lawful :=
  lawful_view h ⟨rfl, rfl, rfl, rfl, rfl, id, id, id, (sameView_setDraft s n d).config, rfl, rfl, rfl, rfl, rfl, rfl⟩ (sameView_setDraft s n d)

/-- What has the laws of `u`, a slot of which alone differs from `s`, acts within the tables and the mode. -/
theorem lawful_slot (slot : Slot) (h : s.Lawful) (a : Acts (s.setSlot n slot) t)
    (k : LoadsLaw none none true s → LoadsLaw none none true t) : t.Lawful := by
  obtain ⟨hs, hp⟩ := (lawful_iff s).1 h
  refine (lawful_iff t).2 ⟨⟨a.ports hs.ports, a.hold hs.hold, a.flags hs.flags, ?_, k hs.loads⟩, ?_⟩
  · exact { ladder := by rw [a.live]; exact hs.tables.ladder
            settings := by rw [a.mgmt]; exact hs.tables.settings
            saved := by rw [a.mgmt]; exact hs.tables.saved
            stored := by rw [a.mgmt]; exact hs.tables.stored }
  · unfold State.PhaseLaw
    rw [a.phase, a.mode]; exact hp

theorem lawful_publishChecked (n : LoadNo) (h : s.Lawful) : (s.publishChecked n).1.Lawful := by
  unfold State.publishChecked
  split
  · exact h
  · split
    · exact h
    · split
      · rename_i hl
        exact lawful_censusCheck (lawful_slot _ h (acts_publishNew s n _) (law_publishNew hl))
      · rename_i l hl
        split
        · exact h
        · split
          · exact h
          · rename_i hd
            refine lawful_censusCheck (lawful_slot _ h (acts_publishLive s n _ _ _) (law_publishLive hl rfl ?_))
            intro hne
            refine isDown_out ?_
            simpa [hne] using hd

theorem lawful_retireChecked (n : LoadNo) (h : s.Lawful) : (s.retireChecked n).1.Lawful := by
  unfold State.retireChecked
  split
  · exact h
  · rename_i l hl
    split
    · exact h
    · rename_i hd
      split
      · exact h
      · unfold State.retire State.done
        dsimp only
        refine lawful_censusCheck ?_
        have h1 := lawful_acts h (acts_decideHeld s n (.withdrawn .retired)) (law_decideHeld n _)
        have hl1 : (s.decideHeld n (.withdrawn .retired)).live? n = some l := by
          rw [live?_decideHeld]; exact hl
        have hh : n ∉ (s.decideHeld n (.withdrawn .retired)).heldLoads := by
          unfold State.decideHeld
          split
          · rw [(talk_answerSwitch ..).sameView.held]; exact not_held_unhold s n
          · exact heldFor_none ‹_›
        generalize s.decideHeld n (.withdrawn .retired) = u at *
        refine lawful_slot { u.loads.slots[n] with live := none } h1
          ((acts_leaveCensus _ n).trans (acts_reportDraw ..)) fun k => law_reportDraw _ ?_
        refine LoadsLaw.congr (sameView_leaveCensus ..) ?_
        have hout : stackState l.run.state = false := isDown_out (by simpa using hd)
        have hs : n ∉ u.stackLoads := fun hm => by
          have := (k.exact n).1 hm
          rw [state?_of hl1] at this; simp [hout] at this
        refine (LoadsLaw.setSlot k _ ?_ (by simp) fun hm => absurd hm hh).unexempt fun hm => absurd hm hs
        rw [state?_of hl1]; simp [hout]

/-! ### The ladder, the watches and the settings -/

theorem lawful_publishLadderChecked (h : s.Lawful) : s.publishLadderChecked.1.Lawful := by
  unfold State.publishLadderChecked
  split
  · exact h
  · split
    · exact h
    · rename_i d _
      split
      · exact h
      · rename_i ho
        split
        · exact h
        · rename_i hp
          obtain ⟨hs, hph⟩ := (lawful_iff s).1 h
          have h1 : (s.installLadder d).Lawful := (lawful_iff _).2
            ⟨⟨hs.ports, hs.hold, hs.flags,
              ⟨⟨by simpa using ho, by simpa using hp⟩, hs.tables.settings, hs.tables.saved, hs.tables.stored⟩,
              LoadsLaw.congr (s := s) sameView_rfl hs.loads⟩, hph⟩
          exact lawful_acts h1 (acts_recompute _) law_recompute

theorem lawful_takeChange (before : State) (h : s.Lawful) : (s.takeChange before).Lawful :=
  lawful_acts h (acts_takeChange ..) (law_takeChange before)

theorem lawful_takeArrival (before : State) (h : s.Lawful) : (s.takeArrival before).Lawful :=
  lawful_acts h (acts_takeArrival ..) (law_takeArrival before)

theorem sourceOk_range {v : Byte} (h : sourceOk v = true) : 1 ≤ v.toNat ∧ v.toNat ≤ 62 := by
  unfold sourceOk at h; simpa using h

theorem modeOfByte_ne {v : Byte} {m : Mode} (h : modeOfByte v = some m) : m ≠ .starting := by
  unfold modeOfByte at h
  intro e; subst e
  repeat' split at h
  all_goals simp at h

/-- An accepted WRITE SETTING keeps the ranges of R166. -/
theorem lawful_write {st st' : Settings} {code : Byte} {value : List Byte}
    (hw : st.write code value = some st') (h : st.Lawful) : st'.Lawful := by
  unfold Settings.write at hw
  split at hw
  · split at hw
    · injection hw with hw; subst hw
      exact { h with nodeAddress := sourceOk_range ‹_› }
    · simp at hw
  · split at hw
    · injection hw with hw; subst hw
      exact { h with monitorNode := sourceOk_range ‹_› }
    · simp at hw
  · dsimp only at hw
    split at hw
    · rename_i hc
      injection hw with hw; subst hw
      simp only [Bool.and_eq_true, List.all_eq_true] at hc
      exact { h with managers := ⟨rfl, fun a ha => by simpa using hc.1 a ha, hc.2⟩ }
    · simp at hw
  · split at hw
    · injection hw with hw; subst hw
      exact { h with answerTimeout := ‹_› }
    · simp at hw
  · split at hw
    · injection hw with hw; subst hw
      exact { h with staleTimeout := ‹_› }
    · simp at hw
  · split at hw
    · injection hw with hw; subst hw
      exact { h with holdLifetime := ‹_› }
    · simp at hw
  · split at hw
    · injection hw with hw; subst hw
      exact { h with preWarning := ‹_› }
    · simp at hw
  · obtain ⟨m, hm, hw⟩ := Option.map_eq_some_iff.1 hw
    subst hw
    exact { h with startMode := modeOfByte_ne hm }
  · simp at hw

theorem lawful_setSettings {st : Settings} (hst : st.Lawful) (h : s.Lawful) : (s.setSettings st).Lawful := by
  obtain ⟨hs, hp⟩ := (lawful_iff s).1 h
  exact (lawful_iff _).2 ⟨⟨hs.ports, hs.hold, hs.flags,
    ⟨hs.tables.ladder, hst, hs.tables.saved, hs.tables.stored⟩,
    LoadsLaw.congr (s := s) sameView_rfl hs.loads⟩, hp⟩

/-! ### SAVE -/

/-- Another save and store, each keeping its laws. -/
theorem lawful_store (save : Option SaveOp) (store : Option StoreContent)
    (hsave : ∀ op, save = some op → op.content.Lawful) (hstore : ∀ c, store = some c → c.Lawful)
    (h : s.Lawful) : State.Lawful { s with mgmt := { s.mgmt with save := save, store := store } } := by
  obtain ⟨hs, hp⟩ := (lawful_iff s).1 h
  exact (lawful_iff _).2 ⟨⟨hs.ports, hs.hold, hs.flags, ⟨hs.tables.ladder, hs.tables.settings, hsave, hstore⟩,
    LoadsLaw.congr (s := s) sameView_rfl hs.loads⟩, hp⟩

theorem lawful_beginSave (node : Nat) (h : s.Lawful) : (s.beginSave node).Lawful :=
  lawful_store _ none (fun op hop => by
    injection hop with hop; subst hop
    exact ⟨h.tables.ladder, h.tables.settings⟩) (fun c hc => by simp at hc) h

theorem lawful_endSave {op : SaveOp} (ok : Bool) (ho : s.mgmt.save = some op) (h : s.Lawful) :
    (s.endSave op ok).Lawful := by
  unfold State.endSave
  refine lawful_talk (lawful_store none (if ok then some op.content else none) (fun o hc => by simp at hc)
    (fun c hc => ?_) h) (talk_answerManage ..)
  split at hc
  · injection hc with hc; subst hc; exact h.tables.saved op ho
  · simp at hc

/-! ### Attention -/

theorem lawful_modifyCause (i : Fin 15) {f : CauseFlags → CauseFlags}
    (hf : ∀ c, (c.inService = true → c.pending = true) → (f c).inService = true → (f c).pending = true)
    (h : s.Lawful) : (s.modifyCause i f).Lawful :=
  lawful_view h ⟨rfl, rfl, rfl, rfl, rfl, id, flags_modifyCause i hf, id, fun _ => rfl, rfl, rfl, rfl, rfl, rfl, rfl⟩ (sameView_rfl (s := s))

theorem lawful_controlCause (src cause : Byte) {f : CauseFlags → CauseFlags}
    (hf : ∀ c, (c.inService = true → c.pending = true) → (f c).inService = true → (f c).pending = true)
    (h : s.Lawful) : (s.controlCause src cause f).Lawful :=
  lawful_manage src 25 3 true (fun i _ _ ht => lawful_talk (lawful_modifyCause i hf ht) (talk_announce ..)) h

/-- The announceable causes are pending (R178). -/
theorem announceable_pending {i : Fin 15} {rest : List (Fin 15)} (h : s.announceable = i :: rest) :
    s.attention[i].pending = true := by
  have : i ∈ s.announceable := by rw [h]; simp
  unfold State.announceable at this
  have := (List.mem_filter.1 this).2
  simp [CauseFlags.announceable] at this
  exact this.1.1

theorem lawful_query (h : s.Lawful) : s.query.1.Lawful := by
  unfold State.query
  split
  · exact h
  · rename_i i rest hi
    have hp := announceable_pending hi
    refine lawful_view h ⟨rfl, rfl, rfl, rfl, rfl, id, fun hf => ?_, id, fun _ => rfl, rfl, rfl, rfl, rfl, rfl, rfl⟩ (sameView_rfl (s := s))
    intro j
    show (s.modifyCause i _).attention[j].inService = true → (s.modifyCause i _).attention[j].pending = true
    simp only [modifyCause_fields]
    by_cases hij : i = j
    · subst hij; simpa using hp
    · have : i.val ≠ j.val := fun e => hij (Fin.ext e)
      simpa [Vector.getElem_set_ne _ _ this] using hf j

end Sys2Proof.Laws
end

