-- ==== Sys2Proof/Laws/Commands.lean ====
section
/-! SUPPORT. The Sense Unit's events, start-up and resets, the transmitters, the timers and the passing of time keep the laws of `State.Lawful`. -/

namespace Sys2Proof.Laws

set_option Elab.async false

open Sys2Proof.Machine

variable {x y : Option LoadNo} {b : Bool} {s t : State} {n : LoadNo} {l : Live}

/-! ### The Sense Unit -/

theorem lawful_converterNext (h : s.Lawful) : s.converterNext.Lawful :=
  lawful_view h (acts_converterNext s) (sameView_converterNext s)

theorem lawful_beginRound (h : s.Lawful) : s.beginRound.Lawful :=
  lawful_view h (acts_beginRound s) (sameView_beginRound s)

theorem lawful_roundDue (h : s.Lawful) : s.roundDue.Lawful :=
  lawful_view h (acts_roundDue s) (sameView_roundDue s)

theorem lawful_reading (i : SenseInput) (v : Nat) (h : s.Lawful) : (s.reading i v).Lawful := by
  unfold State.reading
  dsimp only
  refine lawful_takeChange _ ?_
  unfold State.judgeLast
  split <;> exact lawful_aside h

theorem lawful_finishRound (h : s.Lawful) : s.finishRound.Lawful := by
  unfold State.finishRound
  split
  · dsimp only
    split
    · exact lawful_beginRound (lawful_aside h)
    · exact lawful_aside h
  · exact h

theorem lawful_placeSense (requester : Nat) (i : SenseInput) (h : s.Lawful) :
    (s.placeSense requester i).Lawful := by
  unfold State.placeSense
  dsimp only
  refine lawful_converterNext ?_
  split
  · exact lawful_talk (lawful_aside h) (talk_answerManage ..)
  · exact lawful_aside h

theorem lawful_endRequestConversion (i : SenseInput) (v : Nat) (h : s.Lawful) :
    (s.endRequestConversion i v).Lawful := by
  unfold State.endRequestConversion
  split
  · refine lawful_converterNext (lawful_finishRound (lawful_talk (lawful_reading i v ?_) (talk_answerManage ..)))
    exact lawful_aside h
  · refine lawful_converterNext (lawful_finishRound (lawful_reading i v ?_))
    exact lawful_aside h

/-! ### The Meter Tap -/

theorem lawful_offerMeter (src : Byte) (body : List Byte) (h : s.Lawful) : (s.offerMeter src body).Lawful := by
  unfold State.offerMeter
  split
  · split
    · exact lawful_takeArrival _ (lawful_aside h)
    · exact h
  · exact h

/-! ### Warm restart and start-up -/

theorem lawful_cursor (c : Option Cursor) (h : s.Lawful) : (s.setCursor c).Lawful := by
  obtain ⟨hs, hp⟩ := (lawful_iff s).1 h
  exact (lawful_iff _).2 ⟨⟨hs.ports, hs.hold, hs.flags,
    ⟨hs.tables.ladder, hs.tables.settings, hs.tables.saved, hs.tables.stored⟩,
    LoadsLaw.congr (s := s) sameView_rfl hs.loads⟩, hp⟩

theorem lawful_abortSense (h : s.Lawful) : s.abortSense.Lawful := by
  unfold State.abortSense
  split
  · exact lawful_talk (lawful_aside h) (talk_answerManage ..)
  · exact h

theorem lawful_restartWarm (h : s.Lawful) : s.restartWarm.Lawful := by
  unfold State.restartWarm
  have h1 : (s.recordReset .warmRestart).Lawful := lawful_aside h
  have h2 := lawful_acts h1 (acts_withdrawHeld _ (fun _ => true) .restart) (law_withdrawHeld _ _)
  have h3 := lawful_abortSense (lawful_cursor none h2)
  exact lawful_beginCensus (lawful_acts h3 (acts_recompute _) law_recompute)

theorem mode_starting {p : Phase} (h : s.Lawful) (hp : s.control.phase = some p) : s.control.mode = .starting := by
  have := h.phase
  unfold State.PhaseLaw at this
  rw [hp] at this
  exact this.1 rfl

/-- One phase for another keeps the laws (R150). -/
theorem lawful_phase {p : Phase} (q : Phase) (settle : Option Nat) (h : s.Lawful) (hp : s.control.phase = some p) :
    State.Lawful { s with control := { s.control with phase := some q, settle := settle } } := by
  have hm := mode_starting h hp
  obtain ⟨hs, _⟩ := (lawful_iff s).1 h
  refine (lawful_iff _).2 ⟨⟨hs.ports, hs.hold, hs.flags,
    ⟨hs.tables.ladder, hs.tables.settings, hs.tables.saved, hs.tables.stored⟩,
    LoadsLaw.congr (s := s) sameView_rfl hs.loads⟩, ?_⟩
  unfold State.PhaseLaw
  simp [hm]

theorem loaded_state (c : LoadConfig) : c.loaded.run.state = .unknown ∨ c.loaded.run.state = .off := by
  unfold LoadConfig.loaded
  dsimp only
  split <;> simp

theorem state?_loaded {configs : Vector (Option LoadConfig) 48}
    (ht : t.loads.slots = s.loadedSlots configs) (n : LoadNo) :
    (t.state? n).any stackState = false ∧ t.state? n ≠ some .restoring := by
  have h : t.live? n = configs[n].map LoadConfig.loaded := by
    unfold State.live?; rw [ht]; unfold State.loadedSlots; simp
  unfold State.state?
  rw [h]
  cases configs[n] with
  | none => simp
  | some c => rcases loaded_state c with e | e <;> simp [e, stackState]

/-- What LOAD installs obeys the laws of the stack, the restore and the queue (R160). -/
theorem law_installed {configs : Vector (Option LoadConfig) 48} (ht : t.loads.slots = s.loadedSlots configs)
    (stack : t.ladder.stack = []) (hold : t.hold = []) : LoadsLaw x y b t := by
  have hst : t.stackLoads = [] := by unfold State.stackLoads; rw [stack]; rfl
  have hh : t.heldLoads = [] := by unfold State.heldLoads; rw [hold]; rfl
  exact
    { once := by rw [hst]; exact List.nodup_nil
      exact := fun n => by rw [hst, (state?_loaded ht n).1]; simp
      governed := fun n c hn => by rw [hst] at hn; simp at hn
      bypass := fun _ _ => hst
      restore := fun n hn => absurd hn (state?_loaded ht n).2
      heldOnce := by rw [hh]; exact List.nodup_nil
      waiting := fun n hn => by rw [hh] at hn; simp at hn
      starting := fun _ => hh }

theorem hold_empty (h : s.Lawful) (hm : s.control.mode = .starting) : s.hold = [] :=
  List.map_eq_nil_iff.1 (h.queue.starting hm)

theorem settings_default_lawful : Settings.default.Lawful := by
  constructor <;> decide

theorem ladder_default_lawful : Ladder.default.Lawful := ⟨by decide +kernel, by decide +kernel⟩

/-- What replaces the slots, the map, the watches, the live ladder, the settings and the record of the
check, with an empty stack, keeps the laws in STARTING. -/
theorem lawful_replaced {configs : Vector (Option LoadConfig) 48} (h : s.Lawful) (hm : s.control.mode = .starting)
    (slots : t.loads.slots = s.loadedSlots configs) (stack : t.ladder.stack = []) (hold : t.hold = s.hold)
    (ports : t.ports = s.ports) (flags : t.attention = s.attention) (save : t.mgmt.save = s.mgmt.save)
    (store : t.mgmt.store = s.mgmt.store) (mode : t.control.mode = s.control.mode)
    (phase : t.control.phase = s.control.phase) (ladder : t.ladder.live.Lawful)
    (settings : t.mgmt.settings.Lawful) : t.Lawful := by
  obtain ⟨hs, hp⟩ := (lawful_iff s).1 h
  refine (lawful_iff t).2 ⟨⟨by rw [ports]; exact hs.ports, by rw [hold]; exact hs.hold, ?_,
    ⟨ladder, settings, by rw [save]; exact hs.tables.saved, by rw [store]; exact hs.tables.stored⟩,
    law_installed slots stack (hold.trans (hold_empty h hm))⟩, ?_⟩
  · unfold State.FlagsLaw; rw [flags]; exact hs.flags
  · unfold State.PhaseLaw; rw [phase, mode]; exact hp

theorem slots_installStore (s : State) (c : StoreContent) :
    (s.installStore c).loads.slots = s.loadedSlots c.configs := by simp only [State.installStore]

theorem slots_installDefaults (s : State) :
    s.installDefaults.loads.slots = s.loadedSlots (Vector.replicate 48 none) := by
  simp only [State.installDefaults]

theorem others_installStore (s : State) (c : StoreContent) :
    (s.installStore c).ladder.stack = [] ∧ (s.installStore c).hold = s.hold ∧ (s.installStore c).ports = s.ports ∧
    (s.installStore c).attention = s.attention ∧ (s.installStore c).mgmt.save = s.mgmt.save ∧
    (s.installStore c).mgmt.store = s.mgmt.store ∧ (s.installStore c).control.mode = s.control.mode ∧
    (s.installStore c).control.phase = s.control.phase ∧ (s.installStore c).ladder.live = c.ladder ∧
    (s.installStore c).mgmt.settings = c.settings := by
  refine ⟨?_, ?_, ?_, ?_, ?_, ?_, ?_, ?_, ?_, ?_⟩ <;> simp only [State.installStore]

theorem others_installDefaults (s : State) :
    (s.installDefaults).ladder.stack = [] ∧ (s.installDefaults).hold = s.hold ∧ (s.installDefaults).ports = s.ports ∧
    (s.installDefaults).attention = s.attention ∧ (s.installDefaults).mgmt.save = s.mgmt.save ∧
    (s.installDefaults).mgmt.store = s.mgmt.store ∧ (s.installDefaults).control.mode = s.control.mode ∧
    (s.installDefaults).control.phase = s.control.phase ∧ (s.installDefaults).ladder.live = s.ladder.live ∧
    (s.installDefaults).mgmt.settings = .default := by
  refine ⟨?_, ?_, ?_, ?_, ?_, ?_, ?_, ?_, ?_, ?_⟩ <;> simp only [State.installDefaults]

theorem lawful_installStore {c : StoreContent} (h : s.Lawful) (hc : c.Lawful) (hm : s.control.mode = .starting) :
    (s.installStore c).Lawful := by
  obtain ⟨h1, h2, h3, h4, h5, h6, h7, h8, h9, h10⟩ := others_installStore s c
  refine lawful_replaced h hm (slots_installStore s c) h1 h2 h3 h4 h5 h6 h7 h8 ?_ ?_
  · rw [h9]; exact hc.ladder
  · rw [h10]; exact hc.settings

theorem lawful_installDefaults (h : s.Lawful) (hm : s.control.mode = .starting) : s.installDefaults.Lawful := by
  obtain ⟨h1, h2, h3, h4, h5, h6, h7, h8, h9, h10⟩ := others_installDefaults s
  refine lawful_replaced h hm (slots_installDefaults s) h1 h2 h3 h4 h5 h6 h7 h8 ?_ ?_
  · rw [h9]; exact h.tables.ladder
  · rw [h10]; exact settings_default_lawful

theorem lawful_enterCensus {p : Phase} (h : s.Lawful) (hp : s.control.phase = some p) : s.enterCensus.Lawful :=
  lawful_beginCensus (lawful_phase .census s.control.settle h hp)

theorem lawful_endLoad {c : Option StoreContent} (h : s.Lawful) (hp : s.control.phase = some .load)
    (hc : ∀ k, c = some k → k.Lawful) : (s.endLoad c).Lawful := by
  have hm := mode_starting h hp
  unfold State.endLoad
  split
  · have h1 := lawful_installStore h (hc _ rfl) hm
    exact lawful_enterCensus (lawful_acts h1 (acts_recompute _) law_recompute)
      ((acts_recompute _).phase.trans hp)
  · have h1 := lawful_installDefaults h hm
    exact lawful_enterCensus (lawful_talk h1 (talk_raise ..)) ((talk_raise _ _).acts.phase.trans hp)

/-! ### Resets -/

theorem replicate_live (t : State) (h : t.loads.slots = Vector.replicate 48 {}) (n : LoadNo) : t.live? n = none := by
  unfold State.live?; rw [h]; simp

/-- The part held in a reset obeys every law (R22, R92, R149, R181). -/
theorem lawful_volatileLost (hc : ∀ c, s.mgmt.store = some c → c.Lawful) : s.volatileLost.Lawful := by
  have hl : ∀ n, s.volatileLost.live? n = none := replicate_live _ rfl
  have hst : ∀ n, s.volatileLost.state? n = none := fun n => by unfold State.state?; rw [hl]; rfl
  refine (lawful_iff _).2 ⟨⟨⟨Nat.zero_le _, Nat.zero_le _, Nat.zero_le _⟩, Nat.zero_le _, fun i => ?_,
    ⟨ladder_default_lawful, settings_default_lawful, fun op ho => absurd ho (by simp [State.volatileLost, State.reset]),
      hc⟩, ?_⟩, ⟨fun _ => rfl, fun _ => rfl⟩⟩
  · simp [State.volatileLost, State.reset]
  · exact
      { once := List.nodup_nil
        exact := fun n => by rw [hst]; simp [State.stackLoads, State.volatileLost, State.reset, LadderController.reset]
        governed := fun n c _ _ hc => by unfold config? at hc; rw [hl] at hc; simp at hc
        bypass := fun _ _ => rfl
        restore := fun n hn => by rw [hst] at hn; simp at hn
        heldOnce := List.nodup_nil
        waiting := fun n hn => by simp [State.heldLoads, State.volatileLost, State.reset] at hn
        starting := fun _ => rfl }

theorem lawful_beginHold (k : ResetKind) (supply line : Bool) (h : s.Lawful) :
    (s.beginHold k supply line).Lawful := by
  unfold State.beginHold
  refine lawful_volatileLost ?_
  split <;> exact h.tables.stored

theorem lawful_releaseIfFree (h : s.Lawful) : s.releaseIfFree.Lawful := by
  unfold State.releaseIfFree
  split
  · exact h
  · exact lawful_aside h

/-! ### The transmitters -/

theorem lawful_ports (p : Ports) (h : s.Lawful) (hp : PortsFit s.ports → PortsFit p) :
    State.Lawful { s with ports := p } :=
  lawful_view h ⟨rfl, rfl, rfl, rfl, rfl, hp, id, id, fun _ => rfl, rfl, rfl, rfl, rfl, rfl, rfl⟩ (sameView_rfl (s := s))

theorem lawful_sendOwed (n : LoadNo) (h : s.Lawful) : (s.sendOwed n).Lawful := by
  unfold State.sendOwed
  split
  · exact h
  · split
    · rename_i l _ _ _ o _ _ _ _
      dsimp only
      have v : SameView s (s.changeRun n (Runtime.started o s.answerMs)) :=
        sameView_changeRun n fun _ _ => rfl
      have h1 : ∀ f, ((s.changeRun n (Runtime.started o s.answerMs)).setLoadTx f).Lawful := fun f =>
        lawful_ports { s.ports with loadTx := f } (lawful_view h (acts_changeRun ..) v)
          fun p => ⟨p.replies, p.panelFifo, p.loadFifo⟩
      split
      · exact h1 _
      · exact lawful_censusCheck (lawful_view (h1 _) (acts_leaveCensus ..) (sameView_leaveCensus ..))
    · exact h

theorem lawful_sendRelayed (h : s.Lawful) : s.sendRelayed.Lawful := by
  unfold State.sendRelayed
  split
  · rename_i f rest hf
    refine lawful_ports _ h fun p => ⟨p.replies, p.panelFifo, ?_⟩
    have := p.loadFifo
    rw [hf] at this
    exact Nat.le_trans (Nat.le_succ _) this
  · exact h

theorem lawful_startPanel (h : s.Lawful) : State.Lawful { s with ports := s.ports.startPanel } := by
  refine lawful_ports _ h fun p => ?_
  unfold Ports.startPanel
  split
  · exact p
  · rename_i f rest _ _ hr
    refine ⟨?_, p.panelFifo, p.loadFifo⟩
    have := p.replies
    rw [hr] at this
    exact Nat.le_trans (Nat.le_succ _) this
  · rename_i f rest _ _ hr
    refine ⟨p.replies, ?_, p.loadFifo⟩
    have := p.panelFifo
    rw [hr] at this
    exact Nat.le_trans (Nat.le_succ _) this
  · exact p

/-! ### Timers of a load -/

theorem lawful_lockoutExpiry (n : LoadNo) (l : Live) (h : s.Lawful) :
    (((s.changeRun n fun _ r => r.lockoutEnds).reportDirect n l.run).reportLockout n).Lawful := by
  refine lawful_acts h (((acts_changeRun ..).trans (talk_reportDirect ..).acts).trans (acts_reportLockout ..))
    fun k => law_reportLockout n ((talk_reportDirect ..).law ?_)
  have e : ∀ r : Runtime, r.lockoutEnds.state = r.state ∨ (r.state = .lockout ∧ r.lockoutEnds.state = .off) :=
    fun r => by
      unfold Runtime.lockoutEnds
      dsimp only
      split
      · exact .inr ⟨‹_›, rfl⟩
      · exact .inl rfl
  refine k.changeRun n _ (fun l' h' => ?_) (fun l' h' hr => ?_) (fun _ l' h' hm => ?_) (fun _ _ => id)
  · rcases e l'.run with e | ⟨e1, e2⟩
    · rw [e]
    · rw [e1, e2]; rfl
  · rcases e l'.run with e | ⟨e1, e2⟩
    · rw [e] at hr; exact k.restore n (by rw [state?_of h', hr])
    · rw [e2] at hr; simp at hr
  · rcases e l'.run with e | ⟨e1, e2⟩
    · rw [e]
      obtain ⟨st, hst, hw⟩ := k.waiting n hm
      rw [state?_of h'] at hst; injection hst with hst; subst hst
      exact hw (by simp)
    · rw [e2]; simp

theorem law_unanswered (hl : s.live? n = some l) (h : LoadsLaw x y b s) :
    LoadsLaw x y b (s.unanswered n l.run) ∧ (s.unanswered n l.run).state? n ≠ some .restoring := by
  unfold State.unanswered
  split
  · rename_i hr
    refine ⟨law_settle h (fun l' h' => ?_) (fun _ r => by simp [Runtime.becomeOff, stackState]), ?_⟩
    · rw [same_live hl h', hr.1]; rfl
    · rw [state?_changeRun_self _ hl]; simp [Runtime.becomeOff]
  · have v := sameView_changeRun_unstack s n fun _ r => { r.becomeAbsent with answer := none }
    refine ⟨(talk_raise ..).law (LoadsLaw.congr v ?_), ?_⟩
    · exact h.leave n _ (fun l' _ => rfl) (fun l' _ hr => absurd hr (by simp [Runtime.becomeAbsent]))
        (fun _ l' _ _ => by simp [Runtime.becomeAbsent]) (fun _ _ => id)
    · rw [(talk_raise ..).sameView.state]
      have e : ∀ u : State, (u.unstack n).state? n = u.state? n := fun _ => rfl
      rw [e, state?_changeRun_self _ hl]; simp [Runtime.becomeAbsent]

theorem acts_unanswered (s : State) (n : LoadNo) (r : Runtime) : Acts s (s.unanswered n r) := by
  unfold State.unanswered
  split
  · exact acts_changeRun ..
  · exact ((acts_changeRun ..).trans (acts_unstack ..)).trans (talk_raise ..).acts

theorem lawful_answerExpiry (hl : s.live? n = some l) (h : s.Lawful) :
    ((((s.unanswered n l.run).restoreEnded n).leaveCensus n).reportDraw s).censusCheck.Lawful := by
  refine lawful_censusCheck (lawful_acts h ?_ fun k => ?_)
  · exact (((acts_unanswered ..).trans (acts_restoreEnded ..)).trans (acts_leaveCensus ..)).trans (acts_reportDraw ..)
  · obtain ⟨h1, h2⟩ := law_unanswered hl k
    exact law_reportDraw _ (LoadsLaw.congr (sameView_leaveCensus ..) (h1.restoreEnded n h2))

theorem lawful_graceCut (hl : s.live? n = some l) (hw : l.run.state = .winding) (h : s.Lawful) :
    ((((s.raise .windTimeout).windDownEnds n l).commandOff n).reportDraw s).Lawful := by
  refine lawful_acts h ?_ fun k => law_reportDraw _ (LoadsLaw.congr (sameView_commandOff ..) ?_)
  · exact (((talk_raise ..).acts.trans (acts_windDownEnds ..)).trans (acts_commandOff ..)).trans (acts_reportDraw ..)
  · exact law_windDownEnds ((live?_congr (talk_raise s _).loads n).trans hl) hw ((talk_raise ..).law k)

theorem lawful_graceKeep (n : LoadNo) (h : s.Lawful) : ((s.raise .windTimeout).changeRun n fun _ r =>
    { r with overdue := true, grace := none }).Lawful :=
  lawful_view (lawful_talk h (talk_raise s .windTimeout)) (acts_changeRun ..) (sameView_changeRun n fun _ _ => rfl)

theorem lawful_minOn (n : LoadNo) (h : s.Lawful) : (s.changeRun n fun _ r => { r with minOn := none }).Lawful :=
  lawful_view h (acts_changeRun ..) (sameView_changeRun n fun _ _ => rfl)

/-! ### The other timers -/

theorem lawful_exitExpiry (h : s.Lawful) : (s.exitExpired.takeOverFall s).Lawful :=
  lawful_acts h ((acts_exitExpired s).trans (acts_takeOverFall ..)) fun k => law_takeOverFall _ (law_exitExpired k)

theorem lawful_budgetShed (h : s.Lawful) : s.budgetShed.Lawful := lawful_acts h (acts_budgetShed s) law_budgetShed

theorem lawful_raiseOver (h : s.Lawful) : s.raiseOver.Lawful := lawful_aside h

theorem lawful_takeOverRise (h : s.Lawful) : s.takeOverRise.Lawful := by
  unfold State.takeOverRise
  refine lawful_acts h (((acts_changeEndsDoze s).trans (acts_evaluate ..)).trans (acts_takeOverFall ..)) fun k => ?_
  exact law_takeOverFall _ (law_evaluate _ (k.congr (sameView_changeEndsDoze s)))

/-- The sequencer leaves its stagger (R115). -/
theorem law_setIdle {left : Nat} (hs : s.ladder.seq = .stagger left) (h : LoadsLaw x y b s) :
    LoadsLaw x y b (s.setSeq .idle) := law_setSeq _ (by simp [hs]) h

theorem lawful_staggerEnds {left : Nat} (hs : s.ladder.seq = .stagger left) (h : s.Lawful) :
    s.staggerEnds.Lawful := by
  have h1 := lawful_acts h (acts_setSeq s .idle) (law_setIdle hs)
  unfold State.staggerEnds
  split
  · exact lawful_acts h1 (acts_restore ..) fun k => law_restore _ k (by simp)
  · exact lawful_acts h1 (acts_replayEvent _) law_replayEvent

theorem lawful_holdExpiry (n : LoadNo) (h : s.Lawful) :
    ((s.decideHeld n (.withdrawn .expired)).raise .holdExpired).Lawful :=
  lawful_acts h ((acts_decideHeld ..).trans (talk_raise ..).acts) fun k => (talk_raise ..).law (law_decideHeld n _ k)

/-! ### Time -/

theorem live?_tick (s : State) (n : LoadNo) :
    s.tick.live? n = (s.live? n).map fun l => { l with run := l.run.tick } := by
  unfold State.live? State.tick Slot.tick
  simp

theorem state?_tick (s : State) (n : LoadNo) : s.tick.state? n = s.state? n := by
  unfold State.state?; rw [live?_tick]; simp [Option.map_map, Function.comp_def, Runtime.tick]

theorem config?_tick (s : State) (n : LoadNo) : config? s.tick n = config? s n := by
  unfold config?; rw [live?_tick]; simp [Option.map_map, Function.comp_def]

theorem lawful_tick (h : s.Lawful) : s.tick.Lawful := by
  have hh : s.tick.heldLoads = s.heldLoads := by
    unfold State.heldLoads State.tick
    simp [List.map_map, Function.comp_def]
  obtain ⟨hs, hp⟩ := (lawful_iff s).1 h
  have k := hs.loads
  refine (lawful_iff _).2 ⟨⟨hs.ports, by unfold State.tick; simpa using hs.hold, hs.flags,
    ⟨hs.tables.ladder, hs.tables.settings, hs.tables.saved, hs.tables.stored⟩, ?_⟩, hp⟩
  exact
    { once := k.once
      exact := fun n => by rw [state?_tick]; exact k.exact n
      governed := fun n c hn hx hc => k.governed n c hn hx (by rw [← config?_tick]; exact hc)
      bypass := k.bypass
      restore := fun n hn => by
        have hq := k.restore n (by rw [← state?_tick]; exact hn)
        show s.ladder.seq.tick = _
        rw [hq]; rfl
      heldOnce := by rw [hh]; exact k.heldOnce
      waiting := fun n hn => by rw [state?_tick]; exact k.waiting n (by rw [← hh]; exact hn)
      starting := fun hm => by rw [hh]; exact k.starting hm }

end Sys2Proof.Laws
end

