-- ==== Sys2Proof/Laws/Keeps.lean ====
section
/-! SUPPORT. Each command keeps the laws of `State.Lawful`: one lemma for each meaning. -/

namespace Sys2Proof.Laws

set_option Elab.async false

open Sys2Proof.Machine

variable {s t : State}

theorem lawful_withCursor {src : Byte} {act : Cursor → State × Option Answer} (ha : ∀ c, (act c).1.Lawful)
    (h : s.Lawful) : (s.withCursor src act).1.Lawful := by
  unfold State.withCursor
  split
  · exact h
  · split
    · exact ha _
    · exact h

theorem lawful_setModeChecked {m : Mode} (hm : m ≠ .starting) (h : s.Lawful) :
    (if s.restarting then s.refuse .busy else if s.control.mode = m then s.done
      else (s.changeMode m).done).1.Lawful := by
  split
  · exact h
  · rename_i hr
    split
    · exact h
    · have hp : s.control.phase = none := by
        cases hph : s.control.phase with
        | none => rfl
        | some p =>
          have := mode_starting h hph
          simp [State.restarting, this] at hr
      exact lawful_changeMode m hm ((lawful_iff s).1 h).1 hp

theorem keeps_execOnRequest (src dst ch : Byte) (h : s.Lawful)
    (he : execOnRequest src dst ch s = .next t) : t.Lawful := by
  unfold execOnRequest at he
  injection he with he
  subst he
  refine lawful_takeFrame _ _ _ _ (fun u hu => ?_) h
  split
  · exact hu
  · exact lawful_admission _ _ _ hu

theorem keeps_execLevelRequest (src dst ch level : Byte) (h : s.Lawful)
    (he : execLevelRequest src dst ch level s = .next t) : t.Lawful := by
  unfold execLevelRequest at he
  injection he with he
  subst he
  refine lawful_takeFrame _ _ _ _ (fun u hu => ?_) h
  split
  · exact hu
  · split
    · exact lawful_admissionOff _ _ hu
    · exact lawful_admission _ _ _ hu

theorem keeps_execOffRequest (src dst ch : Byte) (h : s.Lawful)
    (he : execOffRequest src dst ch s = .next t) : t.Lawful := by
  unfold execOffRequest at he
  injection he with he
  subst he
  refine lawful_takeFrame _ _ _ _ (fun u hu => ?_) h
  split
  · exact hu
  · exact lawful_admissionOff _ _ hu

theorem keeps_execFailedSwitchFrame (src dst : Byte) (body : List Byte) (h : s.Lawful)
    (he : execFailedSwitchFrame src dst body s = .next t) : t.Lawful := by
  unfold execFailedSwitchFrame at he
  injection he with he
  subst he
  exact lawful_takeFrame _ _ _ _ (fun _ hu => hu) h

theorem keeps_execFailedStateFrame (src dst : Byte) (body : List Byte) (h : s.Lawful)
    (he : execFailedStateFrame src dst body s = .next t) : t.Lawful := by
  unfold execFailedStateFrame at he
  injection he with he
  subst he
  exact lawful_takeFrame _ _ _ _ (fun _ hu => hu) h

theorem keeps_execOnReport (src dst out : Byte) (level : Option Byte) (h : s.Lawful)
    (he : execOnReport src dst out level s = .next t) : t.Lawful := by
  unfold execOnReport at he
  injection he with he
  subst he
  refine lawful_takeFrame _ _ _ _ (fun u hu => ?_) h
  split
  · exact lawful_takeState _ _ _ _ (fun u n l => acts_onEffect u n l _) (fun _ _ _ hl k => heard_onEffect hl _ k) hu
  · exact hu

theorem keeps_execOffReport (src dst out : Byte) (h : s.Lawful)
    (he : execOffReport src dst out s = .next t) : t.Lawful := by
  unfold execOffReport at he
  injection he with he
  subst he
  exact lawful_takeFrame _ _ _ _ (fun _ hu => lawful_takeState _ _ _ _ acts_offEffect
    (fun _ _ _ hl k => .inl (law_offEffect hl k)) hu) h

theorem keeps_execWindingReport (src dst out : Byte) (h : s.Lawful)
    (he : execWindingReport src dst out s = .next t) : t.Lawful := by
  unfold execWindingReport at he
  injection he with he
  subst he
  exact lawful_takeFrame _ _ _ _ (fun _ hu => lawful_takeState _ _ _ _ acts_windingEffect
    (fun _ _ _ hl k => .inl (law_windingEffect hl k)) hu) h

theorem keeps_execStoppedReport (src dst out : Byte) (h : s.Lawful)
    (he : execStoppedReport src dst out s = .next t) : t.Lawful := by
  unfold execStoppedReport at he
  injection he with he
  subst he
  exact lawful_takeFrame _ _ _ _ (fun _ hu => lawful_takeState _ _ _ _ acts_offEffect
    (fun _ _ _ hl k => .inl (law_offEffect hl k)) hu) h

theorem keeps_execFaultReport (src dst out : Byte) (h : s.Lawful)
    (he : execFaultReport src dst out s = .next t) : t.Lawful := by
  unfold execFaultReport at he
  injection he with he
  subst he
  exact lawful_takeFrame _ _ _ _ (fun _ hu => lawful_takeState _ _ _ _ (fun u n _ => acts_faultEffect u n)
    (fun _ _ _ hl k => .inl (law_faultEffect hl k)) hu) h

theorem keeps_execMeterArrival (src dst : Byte) (body : List Byte) (h : s.Lawful)
    (he : execMeterArrival src dst body s = .next t) : t.Lawful := by
  unfold execMeterArrival at he
  injection he with he
  subst he
  exact lawful_takeFrame _ _ _ _ (fun _ hu => lawful_offerMeter _ _ (lawful_talk hu (talk_joinPanelFifo ..))) h

theorem keeps_execDataFrame (line : Line) (src dst : Byte) (body : List Byte) (h : s.Lawful)
    (he : execDataFrame line src dst body s = .next t) : t.Lawful := by
  unfold execDataFrame at he
  injection he with he
  subst he
  refine lawful_takeFrame _ _ _ _ (fun u hu => ?_) h
  split
  · exact lawful_talk hu (talk_joinOther ..)
  · exact hu

theorem keeps_execFrameIgnored (line : Line) (kind : FrameKind) (src dst : Byte) (body : List Byte) (h : s.Lawful)
    (he : execFrameIgnored line kind src dst body s = .next t) : t.Lawful := by
  unfold execFrameIgnored at he
  injection he with he
  subst he
  split
  · exact lawful_takeFrame _ _ _ _ (fun _ hu => hu) h
  · exact h

theorem keeps_execFrameDiscarded (line : Line) (bytes : List Byte) (h : s.Lawful)
    (he : execFrameDiscarded line bytes s = .next t) : t.Lawful := by
  unfold execFrameDiscarded at he
  injection he with he
  subst he
  split
  · exact h
  · exact lawful_talk (lawful_view h (acts_lineActivity s) (sameView_lineActivity s)) (talk_raise ..)

theorem keeps_execReadEntry (src load copy : Byte) (h : s.Lawful)
    (he : execReadEntry src load copy s = .next t) : t.Lawful := by
  unfold execReadEntry at he
  injection he with he
  subst he
  refine lawful_manage _ _ _ _ (fun a u ha hu => ?_) h
  split <;> exact hu

theorem keeps_execWriteDraft (src load : Byte) (record : List Byte) (h : s.Lawful)
    (he : execWriteDraft src load record s = .next t) : t.Lawful := by
  unfold execWriteDraft at he
  injection he with he
  subst he
  refine lawful_manage _ _ _ _ (fun a u ha hu => ?_) h
  exact lawful_setDraft _ _ hu

theorem keeps_execDiscardDraft (src load : Byte) (h : s.Lawful)
    (he : execDiscardDraft src load s = .next t) : t.Lawful := by
  unfold execDiscardDraft at he
  injection he with he
  subst he
  refine lawful_manage _ _ _ _ (fun a u ha hu => ?_) h
  split
  · exact lawful_setDraft _ _ hu
  · exact hu

theorem keeps_execPublish (src load : Byte) (h : s.Lawful)
    (he : execPublish src load s = .next t) : t.Lawful := by
  unfold execPublish at he
  injection he with he
  subst he
  refine lawful_manage _ _ _ _ (fun a u ha hu => ?_) h
  exact lawful_unlessSaving (fun _ k => lawful_publishChecked _ k) hu

theorem keeps_execRetire (src load : Byte) (h : s.Lawful)
    (he : execRetire src load s = .next t) : t.Lawful := by
  unfold execRetire at he
  injection he with he
  subst he
  refine lawful_manage _ _ _ _ (fun a u ha hu => ?_) h
  exact lawful_unlessSaving (fun _ k => lawful_retireChecked _ k) hu

theorem keeps_execMap (src ch load : Byte) (h : s.Lawful)
    (he : execMap src ch load s = .next t) : t.Lawful := by
  unfold execMap at he
  injection he with he
  subst he
  refine lawful_manage _ _ _ _ (fun a u ha hu => ?_) h
  exact lawful_unlessSaving (fun _ k => lawful_aside k) hu

theorem keeps_execReadMap (src start : Byte) (h : s.Lawful)
    (he : execReadMap src start s = .next t) : t.Lawful := by
  unfold execReadMap at he
  injection he with he
  subst he
  refine lawful_manage _ _ _ _ (fun a u ha hu => ?_) h
  exact hu

theorem keeps_execWriteStage (src : Byte) (record : List Byte) (h : s.Lawful)
    (he : execWriteStage src record s = .next t) : t.Lawful := by
  unfold execWriteStage at he
  injection he with he
  subst he
  refine lawful_manage _ _ _ _ (fun a u ha hu => ?_) h
  exact lawful_aside hu

theorem keeps_execReadStage (src stage copy : Byte) (h : s.Lawful)
    (he : execReadStage src stage copy s = .next t) : t.Lawful := by
  unfold execReadStage at he
  injection he with he
  subst he
  refine lawful_manage _ _ _ _ (fun a u ha hu => ?_) h
  split <;> exact hu

theorem keeps_execPublishLadder (src : Byte) (h : s.Lawful)
    (he : execPublishLadder src s = .next t) : t.Lawful := by
  unfold execPublishLadder at he
  injection he with he
  subst he
  refine lawful_manage _ _ _ _ (fun a u ha hu => ?_) h
  exact lawful_unlessSaving (fun _ k => lawful_publishLadderChecked k) hu

theorem keeps_execWriteWatch (src : Byte) (record : List Byte) (h : s.Lawful)
    (he : execWriteWatch src record s = .next t) : t.Lawful := by
  unfold execWriteWatch at he
  injection he with he
  subst he
  refine lawful_manage _ _ _ _ (fun a u ha hu => ?_) h
  exact lawful_unlessSaving (fun _ k => lawful_takeChange _ (lawful_aside k)) hu

theorem keeps_execReadWatch (src watch : Byte) (h : s.Lawful)
    (he : execReadWatch src watch s = .next t) : t.Lawful := by
  unfold execReadWatch at he
  injection he with he
  subst he
  refine lawful_manage _ _ _ _ (fun a u ha hu => ?_) h
  exact hu

theorem keeps_execWriteSetting (src code : Byte) (value : List Byte) (h : s.Lawful)
    (he : execWriteSetting src code value s = .next t) : t.Lawful := by
  unfold execWriteSetting at he
  injection he with he
  subst he
  refine lawful_manage _ _ _ _ (fun a u ha hu => ?_) h
  exact lawful_unlessSaving (fun _ k => lawful_setSettings (lawful_write ha h.tables.settings) k) hu

theorem keeps_execReadSetting (src code : Byte) (h : s.Lawful)
    (he : execReadSetting src code s = .next t) : t.Lawful := by
  unfold execReadSetting at he
  injection he with he
  subst he
  refine lawful_manage _ _ _ _ (fun a u ha hu => ?_) h
  exact hu

theorem keeps_execReadStatus (src : Byte) (h : s.Lawful)
    (he : execReadStatus src s = .next t) : t.Lawful := by
  unfold execReadStatus at he
  injection he with he
  subst he
  refine lawful_manage _ _ _ _ (fun a u ha hu => ?_) h
  exact hu

theorem keeps_execReadResetCause (src : Byte) (h : s.Lawful)
    (he : execReadResetCause src s = .next t) : t.Lawful := by
  unfold execReadResetCause at he
  injection he with he
  subst he
  refine lawful_manage _ _ _ _ (fun a u ha hu => ?_) h
  exact hu

theorem keeps_execDumpOpen (src collection start : Byte) (h : s.Lawful)
    (he : execDumpOpen src collection start s = .next t) : t.Lawful := by
  unfold execDumpOpen at he
  injection he with he
  subst he
  refine lawful_manage _ _ _ _ (fun a u ha hu => ?_) h
  exact lawful_cursor _ hu

theorem keeps_execDumpNext (src : Byte) (h : s.Lawful)
    (he : execDumpNext src s = .next t) : t.Lawful := by
  unfold execDumpNext at he
  injection he with he
  subst he
  refine lawful_manage _ _ _ _ (fun a u ha hu => ?_) h
  exact lawful_withCursor (fun _ => lawful_cursor _ hu) hu

theorem keeps_execDumpClose (src : Byte) (h : s.Lawful)
    (he : execDumpClose src s = .next t) : t.Lawful := by
  unfold execDumpClose at he
  injection he with he
  subst he
  refine lawful_manage _ _ _ _ (fun a u ha hu => ?_) h
  exact lawful_withCursor (fun _ => lawful_cursor _ hu) hu

theorem keeps_execSense (src input : Byte) (h : s.Lawful)
    (he : execSense src input s = .next t) : t.Lawful := by
  unfold execSense at he
  injection he with he
  subst he
  refine lawful_manage _ _ _ _ (fun a u ha hu => ?_) h
  split
  · exact hu
  · exact lawful_placeSense _ _ hu

theorem keeps_execSetMode (src mode : Byte) (h : s.Lawful)
    (he : execSetMode src mode s = .next t) : t.Lawful := by
  unfold execSetMode at he
  injection he with he
  subst he
  refine lawful_manage _ _ _ _ (fun a u ha hu => ?_) h
  refine lawful_unlessSaving (fun v k => ?_) hu
  exact lawful_setModeChecked (modeOfByte_ne ha) k

theorem keeps_execSave (src : Byte) (h : s.Lawful)
    (he : execSave src s = .next t) : t.Lawful := by
  unfold execSave at he
  injection he with he
  subst he
  refine lawful_manage _ _ _ _ (fun a u ha hu => ?_) h
  split
  · exact hu
  · exact lawful_unlessSaving (fun _ k => lawful_beginSave _ k) hu

theorem keeps_execWarmRestart (src : Byte) (h : s.Lawful)
    (he : execWarmRestart src s = .next t) : t.Lawful := by
  unfold execWarmRestart at he
  injection he with he
  subst he
  refine lawful_manage _ _ _ _ (fun a u ha hu => ?_) h
  refine lawful_unlessSaving (fun v k => ?_) hu
  split
  · exact k
  · exact lawful_restartWarm k

theorem keeps_execAttentionQuery (src : Byte) (h : s.Lawful)
    (he : execAttentionQuery src s = .next t) : t.Lawful := by
  unfold execAttentionQuery at he
  injection he with he
  subst he
  refine lawful_manage _ _ _ _ (fun a u ha hu => ?_) h
  exact lawful_query hu

theorem keeps_execAttentionClear (src cause : Byte) (h : s.Lawful)
    (he : execAttentionClear src cause s = .next t) : t.Lawful := by
  unfold execAttentionClear at he
  injection he with he
  subst he
  exact lawful_controlCause src cause (fun _ _ hi => by simp [CauseFlags.clear] at hi) h

theorem keeps_execAttentionEnable (src cause : Byte) (h : s.Lawful)
    (he : execAttentionEnable src cause s = .next t) : t.Lawful := by
  unfold execAttentionEnable at he
  injection he with he
  subst he
  exact lawful_controlCause src cause (fun _ hc => hc) h

theorem keeps_execAttentionDisable (src cause : Byte) (h : s.Lawful)
    (he : execAttentionDisable src cause s = .next t) : t.Lawful := by
  unfold execAttentionDisable at he
  injection he with he
  subst he
  exact lawful_controlCause src cause (fun _ hc => hc) h

theorem keeps_execAttentionRelease (src cause : Byte) (h : s.Lawful)
    (he : execAttentionRelease src cause s = .next t) : t.Lawful := by
  unfold execAttentionRelease at he
  injection he with he
  subst he
  exact lawful_controlCause src cause (fun _ _ hi => by simp [CauseFlags.release] at hi) h

theorem keeps_execManageUnknownRequest (src : Byte) (body : List Byte) (h : s.Lawful)
    (he : execManageUnknownRequest src body s = .next t) : t.Lawful := by
  unfold execManageUnknownRequest at he
  injection he with he
  subst he
  split
  · unfold State.refuseUnknown
    split
    · exact lawful_manage _ _ _ _ (fun _ _ _ hu => hu) h
    · exact lawful_manage _ _ _ _ (fun _ _ _ hu => hu) (lawful_aside h)
  · exact h

theorem keeps_execLoadTxStart (h : s.Lawful)
    (he : execLoadTxStart s = .next t) : t.Lawful := by
  unfold execLoadTxStart at he
  injection he with he
  subst he
  split
  · exact h
  · split
    · exact lawful_sendOwed _ h
    · exact lawful_sendRelayed h

theorem keeps_execLoadTxEnd (h : s.Lawful)
    (he : execLoadTxEnd s = .next t) : t.Lawful := by
  unfold execLoadTxEnd at he
  injection he with he
  subst he
  exact lawful_ports _ h fun p => ⟨p.replies, p.panelFifo, p.loadFifo⟩

theorem keeps_execPanelTxStart (h : s.Lawful)
    (he : execPanelTxStart s = .next t) : t.Lawful := by
  unfold execPanelTxStart at he
  injection he with he
  subst he
  exact lawful_startPanel h

theorem keeps_execPanelTxEnd (h : s.Lawful)
    (he : execPanelTxEnd s = .next t) : t.Lawful := by
  unfold execPanelTxEnd at he
  injection he with he
  subst he
  exact lawful_ports _ h fun p => ⟨p.replies, p.panelFifo, p.loadFifo⟩

theorem keeps_execMinOnExpiry (n : LoadNo) (h : s.Lawful)
    (he : execMinOnExpiry n s = .next t) : t.Lawful := by
  unfold execMinOnExpiry at he
  injection he with he
  subst he
  exact lawful_minOn n h

theorem keeps_execLockoutExpiry (n : LoadNo) (h : s.Lawful)
    (he : execLockoutExpiry n s = .next t) : t.Lawful := by
  unfold execLockoutExpiry at he
  injection he with he
  subst he
  split
  · split
    · exact lawful_lockoutExpiry n _ h
    · exact h
  · exact h

theorem keeps_execAnswerExpiry (n : LoadNo) (h : s.Lawful)
    (he : execAnswerExpiry n s = .next t) : t.Lawful := by
  unfold execAnswerExpiry at he
  injection he with he
  subst he
  split
  · split
    · exact lawful_answerExpiry ‹_› h
    · exact h
  · exact h

theorem keeps_execGraceExpiryCut (n : LoadNo) (h : s.Lawful)
    (he : execGraceExpiryCut n s = .next t) : t.Lawful := by
  unfold execGraceExpiryCut at he
  injection he with he
  subst he
  split
  · split
    · rename_i hg
      refine lawful_graceCut ‹_› ?_ h
      unfold Live.graceRuns at hg
      simp at hg
      exact hg.1.1
    · exact h
  · exact h

theorem keeps_execGraceExpiryKeep (n : LoadNo) (h : s.Lawful)
    (he : execGraceExpiryKeep n s = .next t) : t.Lawful := by
  unfold execGraceExpiryKeep at he
  injection he with he
  subst he
  split
  · split
    · exact lawful_graceKeep n h
    · exact h
  · exact h

theorem keeps_execStalenessExpiry (h : s.Lawful)
    (he : execStalenessExpiry s = .next t) : t.Lawful := by
  unfold execStalenessExpiry at he
  injection he with he
  subst he
  split
  · exact lawful_takeChange _ (lawful_talk (lawful_aside (t := s.goStale) h) (talk_raise ..))
  · exact h

theorem keeps_execWatchDwellExpiry (w : WatchNo) (h : s.Lawful)
    (he : execWatchDwellExpiry w s = .next t) : t.Lawful := by
  unfold execWatchDwellExpiry at he
  injection he with he
  subst he
  split
  · exact lawful_takeChange _ (lawful_aside h)
  · exact h

theorem keeps_execExitDwellExpiry (h : s.Lawful)
    (he : execExitDwellExpiry s = .next t) : t.Lawful := by
  unfold execExitDwellExpiry at he
  injection he with he
  subst he
  split
  · exact lawful_exitExpiry h
  · exact h

theorem keeps_execOverrunExpiry (h : s.Lawful)
    (he : execOverrunExpiry s = .next t) : t.Lawful := by
  unfold execOverrunExpiry at he
  injection he with he
  subst he
  split
  · split
    · exact lawful_budgetShed (lawful_raiseOver h)
    · exact lawful_takeOverRise (lawful_budgetShed (lawful_raiseOver h))
  · exact h

theorem keeps_execStaggerExpiry (h : s.Lawful)
    (he : execStaggerExpiry s = .next t) : t.Lawful := by
  unfold execStaggerExpiry at he
  injection he with he
  subst he
  split
  · exact lawful_staggerEnds ‹_› h
  · exact h
  · exact h

theorem keeps_execHoldLifetimeExpiry (n : LoadNo) (h : s.Lawful)
    (he : execHoldLifetimeExpiry n s = .next t) : t.Lawful := by
  unfold execHoldLifetimeExpiry at he
  injection he with he
  subst he
  split
  · split
    · exact lawful_holdExpiry n h
    · exact h
  · exact h

theorem keeps_execQuietTimerExpiry (h : s.Lawful)
    (he : execQuietTimerExpiry s = .next t) : t.Lawful := by
  unfold execQuietTimerExpiry at he
  injection he with he
  subst he
  split
  · exact lawful_aside h
  · exact h

theorem keeps_execScanRoundStart (h : s.Lawful)
    (he : execScanRoundStart s = .next t) : t.Lawful := by
  unfold execScanRoundStart at he
  injection he with he
  subst he
  split
  · exact lawful_roundDue h
  · exact h

theorem keeps_execScanConversionEnd (reading : Int) (h : s.Lawful)
    (he : execScanConversionEnd reading s = .next t) : t.Lawful := by
  unfold execScanConversionEnd at he
  injection he with he
  subst he
  split
  · exact lawful_converterNext (lawful_finishRound (lawful_reading _ _ (lawful_aside h)))
  · exact h

theorem keeps_execRequestConversionEnd (reading : Int) (h : s.Lawful)
    (he : execRequestConversionEnd reading s = .next t) : t.Lawful := by
  unfold execRequestConversionEnd at he
  injection he with he
  subst he
  split
  · exact lawful_endRequestConversion _ _ h
  · exact h

theorem keeps_execSettleEnd (h : s.Lawful)
    (he : execSettleEnd s = .next t) : t.Lawful := by
  unfold execSettleEnd at he
  injection he with he
  subst he
  split
  · rename_i hp
    have h1 := lawful_beginRound (lawful_phase .load none h hp.1)
    exact lawful_acts h1 (acts_evaluate ..) (law_evaluate _)
  · exact h

theorem keeps_execLoadComplete (undamaged : Bool) (h : s.Lawful)
    (he : execLoadComplete undamaged s = .next t) : t.Lawful := by
  unfold execLoadComplete at he
  injection he with he
  subst he
  split
  · rename_i hp
    refine lawful_endLoad h hp fun c hc => h.tables.stored c ?_
    split at hc
    · exact hc
    · simp at hc
  · exact h

theorem keeps_execSaveComplete (copyMatches : Bool) (h : s.Lawful)
    (he : execSaveComplete copyMatches s = .next t) : t.Lawful := by
  unfold execSaveComplete at he
  injection he with he
  subst he
  split
  · exact lawful_endSave _ ‹_› h
  · exact h

theorem keeps_execPowerOn (h : s.Lawful)
    (he : execPowerOn s = .next t) : t.Lawful := by
  unfold execPowerOn at he
  injection he with he
  subst he
  exact lawful_volatileLost h.tables.stored

theorem keeps_execBrownOut (h : s.Lawful)
    (he : execBrownOut s = .next t) : t.Lawful := by
  unfold execBrownOut at he
  injection he with he
  subst he
  exact lawful_beginHold _ _ _ h

theorem keeps_execResetLineAssert (h : s.Lawful)
    (he : execResetLineAssert s = .next t) : t.Lawful := by
  unfold execResetLineAssert at he
  injection he with he
  subst he
  exact lawful_beginHold _ _ _ h

theorem keeps_execResetLineRelease (h : s.Lawful)
    (he : execResetLineRelease s = .next t) : t.Lawful := by
  unfold execResetLineRelease at he
  injection he with he
  subst he
  split
  · exact lawful_releaseIfFree (lawful_aside h)
  · exact h

theorem keeps_execSupplyRecovery (h : s.Lawful)
    (he : execSupplyRecovery s = .next t) : t.Lawful := by
  unfold execSupplyRecovery at he
  injection he with he
  subst he
  split
  · exact lawful_releaseIfFree (lawful_aside h)
  · exact h

end Sys2Proof.Laws
end

