-- ==== Sys2Proof/Laws/Taking.lean ====
section
/-! SUPPORT. What the taking of a frame comes to when the frame is heard, and the taking of a MANAGE request when it is taken: one lemma each, so that a proof about a command starts at the command's own effect. -/

namespace Sys2Proof.Laws

set_option Elab.async false

open Sys2Proof.Machine

variable {s : State}

/-- What hearing a frame leaves alone: everything but the node sides, doze, the scan and the attention
flags with their NOTICE. -/
structure Hearing (s t : State) : Prop where
  loads : t.loads = s.loads := by rfl
  meter : t.meter = s.meter := by rfl
  watches : t.watches = s.watches := by rfl
  ladder : t.ladder = s.ladder := by rfl
  hold : t.hold = s.hold := by rfl
  mgmt : t.mgmt = s.mgmt := by rfl
  choices : t.choices = s.choices := by rfl
  pending : t.pending = s.pending := by rfl
  panelFifo : t.ports.panelFifo = s.ports.panelFifo := by rfl
  loadFifo : t.ports.loadFifo = s.ports.loadFifo := by rfl
  panelTx : t.ports.panelTx = s.ports.panelTx := by rfl
  loadTx : t.ports.loadTx = s.ports.loadTx := by rfl
  last : t.sense.last = s.sense.last := by rfl
  mode : t.control.mode = s.control.mode := by rfl
  phase : t.control.phase = s.control.phase := by rfl
  census : t.control.census = s.control.census := by rfl
  lastReset : t.control.lastReset = s.control.lastReset := by rfl
  storeValid : t.control.storeValid = s.control.storeValid := by rfl
  supplyHold : t.control.supplyHold = s.control.supplyHold := by rfl
  lineHold : t.control.lineHold = s.control.lineHold := by rfl

theorem Hearing.refl (s : State) : Hearing s s :=
  { }

theorem Hearing.trans {s t u : State} (h : Hearing s t) (k : Hearing t u) : Hearing s u :=
  ⟨k.loads.trans h.loads, k.meter.trans h.meter, k.watches.trans h.watches, k.ladder.trans h.ladder,
   k.hold.trans h.hold, k.mgmt.trans h.mgmt, k.choices.trans h.choices, k.pending.trans h.pending,
   k.panelFifo.trans h.panelFifo, k.loadFifo.trans h.loadFifo, k.panelTx.trans h.panelTx,
   k.loadTx.trans h.loadTx, k.last.trans h.last, k.mode.trans h.mode, k.phase.trans h.phase,
   k.census.trans h.census, k.lastReset.trans h.lastReset, k.storeValid.trans h.storeValid,
   k.supplyHold.trans h.supplyHold, k.lineHold.trans h.lineHold⟩

theorem hearing_raise (s : State) (c : Cause) : Hearing s (s.raise c) := by
  unfold State.raise State.announce
  split
  · split <;> exact { }
  · exact { }

theorem hearing_converterNext (s : State) : Hearing s s.converterNext := by
  unfold State.converterNext
  split
  · exact { }
  · split
    · exact { }
    · split <;> exact { }

theorem hearing_roundDue (s : State) : Hearing s s.roundDue := by
  unfold State.roundDue
  split
  · exact Hearing.trans (t := s.startRound) { } (hearing_converterNext _)
  · exact { }

theorem hearing_endDoze (s : State) : Hearing s s.endDoze := by
  unfold State.endDoze
  split
  · exact Hearing.trans (t := s.wake) { } (hearing_roundDue _)
  · exact { }

theorem hearing_lineActivity (s : State) : Hearing s s.lineActivity := by
  unfold State.lineActivity
  split
  · exact (hearing_endDoze s).trans { }
  · exact { }

theorem hearing_learn (s : State) (line : Line) (src : Nat) : Hearing s (s.learn line src) := by
  unfold State.learn
  split
  · exact { }
  · exact Hearing.trans (t := s.setSide src (Line.side line)) { } (hearing_raise _ _)

theorem hearing_heard (s : State) (line : Line) (src : Byte) : Hearing s (s.heard line src) :=
  (hearing_lineActivity s).trans (hearing_learn ..)

/-- Out of STORAGE a frame is no line activity to act on (R157). -/
theorem lineActivity_awake (h : s.control.mode ≠ .storage) : s.lineActivity = s := if_neg h

/-- A frame that is heard comes to its own effect on the state it meets. -/
theorem takeFrame_hears {line : Line} {src dst : Byte} {length : Nat} (k : State → State)
    (h : s.Hears src dst length) : s.takeFrame line src dst length k = k (s.heard line src) := by
  obtain ⟨hold, hdr, len, own⟩ := h
  have ho : s.lineActivity.own = s.own := by rw [State.own, (hearing_lineActivity s).mgmt, State.own]
  unfold headerOk at hdr
  simp [State.takeFrame, hold, hdr, Nat.not_lt.mpr len, ho, own, State.heard]

/-- A request that is taken, with arguments that parse, comes to its own effect; a write-kind one from a
manager (R164). -/
theorem manage_takes {α : Type} {src code : Byte} {length : Nat} {write : Bool} {a : α}
    (act : α → State → State × Option Answer) (h : s.Takes src length)
    (hw : write = true → s.TakesWrite src length) :
    s.manage src code length write (some a) act =
      match act a (s.heard .panel src) with
      | (t, some answer) => t.answerManage src code answer
      | (t, none) => t := by
  have ho : (write && (s.heard .panel src).outsider src) = false := by
    cases write with
    | false => rfl
    | true =>
      rcases (hw rfl).2 with h0 | h1
      · simp [State.outsider, (hearing_heard s .panel src).mgmt, h0]
      · simp [State.outsider, (hearing_heard s .panel src).mgmt, h1]
  simp only [State.manage, takeFrame_hears _ h.1, if_neg (Nat.not_le.mpr h.2), ho, Bool.false_eq_true, if_false] <;>
    rfl

/-- A request that finds the reply list full is discarded unexecuted (R148). -/
theorem manage_full {α : Type} {src code : Byte} {length : Nat} {write : Bool} {a : Option α}
    (act : α → State → State × Option Answer) (h : s.Hears src s.own length)
    (hf : Config.replyDepth ≤ (s.heard .panel src).ports.replies.length) :
    s.manage src code length write a act = (s.heard .panel src).raise .relayOverflow := by
  simp only [State.manage, takeFrame_hears _ h, if_pos hf]

/-- A request that is taken, with arguments that do not parse, is answered BAD_ARG (R164). -/
theorem manage_badArg {α : Type} {src code : Byte} {length : Nat} {write : Bool}
    (act : α → State → State × Option Answer) (h : s.Takes src length) :
    s.manage src code length write none act = (s.heard .panel src).withReply src [code, 2] := by
  simp [State.manage, takeFrame_hears _ h.1, Nat.not_le.mpr h.2, State.answerManage, State.joinReply,
    State.manageReply, State.pushReply, State.withReply, Status.code, byte]

/-- An answer that finds room joins the reply list as it is built (R146, R185). -/
theorem answerManage_room {dst code : Byte} {a : Answer} (h : s.ports.replies.length < Config.replyDepth) :
    s.answerManage dst code a = s.withReply dst (code :: byte a.status.code :: a.data) := by
  simp [State.answerManage, State.joinReply, h, State.pushReply, State.withReply, State.manageReply]

/-- A write-kind request of an outsider, with arguments that parse, is refused DENIED (R165). -/
theorem manage_denied {α : Type} {src code : Byte} {length : Nat} {a : α}
    (act : α → State → State × Option Answer) (h : s.Takes src length)
    (h1 : s.mgmt.settings.managerList ≠ []) (h2 : src.toNat ∉ s.mgmt.settings.managerList) :
    s.manage src code length true (some a) act = (s.heard .panel src).withReply src [code, 1] := by
  have : (s.heard .panel src).outsider src = true := by
    simp [State.outsider, (hearing_heard s .panel src).mgmt, h1, h2]
  simp only [State.manage, takeFrame_hears _ h.1, if_neg (Nat.not_le.mpr h.2), this, Bool.and_self, if_true]
  rw [answerManage_room h.2]; rfl

/-- A longer body heard is a shorter one heard. -/
theorem hears_le {src dst : Byte} {a b : Nat} (k : s.Hears src dst b) (hb : a ≤ b) : s.Hears src dst a :=
  ⟨k.1, k.2.1, Nat.le_trans hb k.2.2.1, k.2.2.2⟩

end Sys2Proof.Laws
end

