-- ==== Sys2Proof/Laws/Records.lean ====
section
/-! SUPPORT. The record of one live load under the shared operations, in the form the statements use (`withRun`), and the operations that find nothing to do. -/

namespace Sys2Proof.Laws

set_option Elab.async false

open Sys2Proof.Machine

variable {s h : State} {n : LoadNo} {l : Live} {r : Runtime}

/-! ### One record -/

theorem changeRun_live (f : LoadConfig → Runtime → Runtime) (hl : s.live? n = some l) :
    s.changeRun n f = s.withRun n l (f l.config l.run) := by
  unfold State.changeRun State.modifyLive State.withRun
  rw [hl]; rfl

theorem live?_withRun (s : State) (n : LoadNo) (l : Live) (r : Runtime) :
    (s.withRun n l r).live? n = some { l with run := r } := by
  unfold State.withRun
  rw [live?_setSlot]; simp

theorem withRun_withRun (s : State) (n : LoadNo) (l : Live) (r q : Runtime) :
    (s.withRun n l r).withRun n { l with run := r } q = s.withRun n l q := by
  unfold State.withRun State.setSlot
  simp

theorem setOwed_live (o : Option Owed) (hl : s.live? n = some l) :
    s.setOwed n o = s.withRun n l { l.run with owed := o } := changeRun_live _ hl

theorem reportDirect_module (before : Runtime) (hl : s.live? n = some l) {node output : Nat}
    (ht : l.config.target = .module node output) : s.reportDirect n before = s := by
  unfold State.reportDirect
  rw [hl]; simp only [ht]

theorem commandOff_module (hl : s.live? n = some l) {node output : Nat}
    (ht : l.config.target = .module node output) :
    s.commandOff n = s.withRun n l { l.run with owed := some .off } := by
  unfold State.commandOff State.target?
  rw [hl]; simp only [Option.map_some, ht]
  exact setOwed_live _ hl

theorem oweOn_live (level : Option Nat) (hl : s.live? n = some l) :
    s.oweOn n level = s.withRunOn n l l.run level := by
  have e : s.withRun n l l.run = s := by
    unfold State.withRun State.setSlot
    have : ({ s.loads.slots[n] with live := some { l with run := l.run } } : Slot) = s.loads.slots[n] := by
      have : s.loads.slots[n].live = some l := hl
      cases hs : s.loads.slots[n]
      simp_all
    rw [this]
    simp
  unfold State.oweOn State.setOwedOn State.withRunOn
  rw [setOwed_live _ hl, hl]
  simp only [Option.bind_some]
  rcases ho : l.run.owed with _ | o
  · simp [owesOn]
  · cases o with
    | on lv since =>
      by_cases hlv : lv = level
      · have hr : ({ l.run with owed := some (.on lv since) } : Runtime) = l.run := by rw [← ho]
        simp [owesOn, hlv]
        rw [← hlv, hr, e]
      · simp [owesOn, hlv]
    | _ => simp [owesOn]

theorem commandOn_module (level : Option Nat) (hl : s.live? n = some l) {node output : Nat}
    (ht : l.config.target = .module node output) : s.commandOn n level = s.withRunOn n l l.run level := by
  unfold State.commandOn State.target?
  rw [hl]; simp only [Option.map_some, ht]
  exact oweOn_live level hl

/-- An ON owed where none was owed before counts from now. -/
theorem withRunOn_fresh (s : State) (n : LoadNo) (l : Live) (level : Option Nat)
    (ho : ∀ lv since, r.owed ≠ some (.on lv since)) :
    s.withRunOn n l r level =
      { s.withRun n l { r with owed := some (.on level s.loads.decisions) } with
        loads := { (s.withRun n l { r with owed := some (.on level s.loads.decisions) }).loads with
          decisions := s.loads.decisions + 1 } } := by
  unfold State.withRunOn
  rcases h : r.owed with _ | o
  · rfl
  · cases o with
    | on lv since => exact absurd h (ho lv since)
    | _ => rfl

theorem commandOn_direct (level : Option Nat) (hl : s.live? n = some l) {d : Fin 4}
    (ht : l.config.target = .direct d) : s.commandOn n level = s.setOutput d true := by
  unfold State.commandOn State.target?
  rw [hl]; simp only [Option.map_some, ht]

theorem commandOff_direct (hl : s.live? n = some l) {d : Fin 4} (ht : l.config.target = .direct d) :
    s.commandOff n = s.setOutput d false := by
  unfold State.commandOff State.target?
  rw [hl]; simp only [Option.map_some, ht]

/-! ### One frame more, and the restore's end -/

theorem restoreEnded_withStagger (s : State) (n : LoadNo) : s.restoreEnded n = s.withStagger n := by
  unfold State.restoreEnded State.startStagger State.setSeq State.withStagger
  split <;> rfl

theorem answerSwitch_room {q ch : Nat} {a : SwitchReply} (room : s.ports.replies.length < 8) :
    s.answerSwitch q ch a = s.withReply (byte q) [0, byte a.codes.1, byte ch, byte a.codes.2] := by
  unfold State.answerSwitch State.joinReply
  rw [if_pos (show s.ports.replies.length < Config.replyDepth from room)]; rfl

theorem joinLoadFifo_room {node : Nat} {body : List Byte} (room : s.ports.loadFifo.length < 16) :
    s.joinLoadFifo { kind := .switch, src := s.own, dst := byte node, body := body } =
      s.withSwitch node body := if_pos room

/-- A direct load whose state or level has changed reports itself (R44). -/
theorem reportDirect_changed {before : Runtime} (hl : s.live? n = some l) {d : Fin 4}
    (ht : l.config.target = .direct d) (changed : l.run.state ≠ before.state ∨ l.run.level ≠ before.level)
    (room : s.ports.replies.length < 8) :
    s.reportDirect n before = s.withReport (s.generatedReport n l d).body := by
  unfold State.reportDirect
  rw [hl]; simp only [ht]
  rw [if_pos changed]
  unfold State.joinReply
  rw [if_pos (show s.ports.replies.length < Config.replyDepth from room)]
  unfold State.withReport State.generatedReport State.reportFrame State.pushReply
  split <;> rfl

/-- The held request of a load is answered and leaves the queue (R134). -/
theorem decideHeld_some {q : Held} (a : SwitchReply) (hq : s.heldFor n = some q)
    (room : s.ports.replies.length < 8) :
    s.decideHeld n a =
      (s.withoutHeld n).withReply (byte q.requester) [0, byte a.codes.1, byte q.channel, byte a.codes.2] := by
  unfold State.decideHeld
  rw [hq]
  exact answerSwitch_room (s := s.withoutHeld n) room

/-! ### Nothing to do -/

theorem heldFor_of_isHeld (hn : s.isHeld n = false) : s.heldFor n = none := by
  unfold State.isHeld at hn
  unfold State.heldFor
  simpa using hn

theorem decideHeld_none (a : SwitchReply) (hn : s.isHeld n = false) : s.decideHeld n a = s := by
  unfold State.decideHeld
  rw [heldFor_of_isHeld hn]

/-- With nothing held and no restore to be found, an event handed to both blocks does nothing. -/
theorem blocksTake_settled (scan replay : Bool) (k : s.Settled) : s.blocksTake scan replay = s := by
  obtain ⟨hh, hs⟩ := k
  have hscan : s.scanEvent = s := by
    unfold State.scanEvent State.scan State.nextRestore
    rcases hs with hs | hs
    · simp [hs]
    · rw [if_neg hs]
  unfold State.blocksTake
  rw [hh]
  cases scan <;> cases replay <;> simp [hscan]

theorem reportDraw_settled (before : State) (k : s.Settled) : s.reportDraw before = s := by
  unfold State.reportDraw State.drawFell
  split
  · exact blocksTake_settled _ _ k
  · rfl

/-- In BYPASS with nothing held a decrease finds nothing to scan or replay (R131, R152). -/
theorem drawFell_bypass (mode : s.control.mode = .bypass) (hh : s.hold = []) : s.drawFell = s := by
  have hn : s.nextRestore = none := by
    unfold State.nextRestore
    rw [List.find?_eq_none]
    intro e _
    unfold State.eligible
    split
    · simp
    · simp [mode]
  have hscan : s.scanEvent = s := by
    unfold State.scanEvent State.scan
    rw [hn]; split <;> rfl
  unfold State.drawFell State.blocksTake
  simp [hh, hscan]

/-- Reports that change nothing where they find the state leave it, however many there are. -/
theorem reportFalls_fixed {f : State → State} (before : State) (hf : f s = s) : s.reportFalls before f = s := by
  have : ∀ ns : List LoadNo, ns.foldl (fun t _ => f t) s = s := by
    intro ns
    induction ns with
    | nil => rfl
    | cons _ ns ih => rw [List.foldl_cons, hf]; exact ih
  exact this _

/-- The sum of the draws does not fall when one load's counted draw does not. -/
theorem draw_withRun_le (hl : s.live? n = some l) (hc : l.run.state.counted = true → r.state.counted = true) :
    s.draw ≤ (s.withRun n l r).draw := by
  have key : ∀ (ns : List LoadNo), (ns.map fun m => s.loads.slots[m].draw).sum ≤
      (ns.map fun m => (s.withRun n l r).loads.slots[m].draw).sum := by
    intro ns
    induction ns with
    | nil => simp
    | cons m ns ih =>
      have hm : s.loads.slots[m].draw ≤ (s.withRun n l r).loads.slots[m].draw := by
        have h1 : (s.withRun n l r).live? m = if n = m then some { l with run := r } else s.live? m := by
          unfold State.withRun; rw [live?_setSlot]
          by_cases e : m = n
          · simp [e]
          · rw [if_neg e, if_neg fun e' => e e'.symm]
        unfold Slot.draw
        show (match s.live? m with | some l => _ | none => 0) ≤
          (match (s.withRun n l r).live? m with | some l => _ | none => 0)
        rw [h1]
        by_cases hnm : n = m
        · subst hnm
          simp only [hl, if_true]
          by_cases hcc : l.run.state.counted = true
          · simp [hcc, hc hcc]
          · simp [hcc]
        · simp [hnm]
      simp only [List.map_cons, List.sum_cons]
      omega
  exact key _

/-! ### A load heard in a census -/

/-- Without a census there is none to leave (R163). -/
@[simp] theorem heardInCensus_of_none (n : LoadNo) (h : s.control.census = none) : s.heardInCensus n = s := by
  unfold State.heardInCensus; rw [h]

/-- Asking whether the census has ended comes to its end, if it waits for no load (R161, R163). -/
theorem censusCheck_eq (s : State) : s.censusCheck = s.censusEnds := by
  have e : s.someUnknown = (List.finRange 48).any fun m => s.state? m == some .unknown := by
    unfold State.someUnknown State.state?
    congr 1
    funext m
    cases s.live? m <;> simp
  unfold State.censusCheck State.censusEnds
  rw [e]
  simp only [List.isEmpty_iff]
  rfl

/-- The meanings take a load out of the set, and then ask whether the census has ended (R161, R163). -/
theorem leaveCensus_censusCheck (s : State) (n : LoadNo) :
    (s.leaveCensus n).censusCheck = s.heardInCensus n := by
  rw [censusCheck_eq]
  unfold State.heardInCensus State.leaveCensus
  cases h : s.control.census with
  | none =>
    have same : ({ s with control := { s.control with census := none } } : State) = s := by rw [← h]
    simp only [Option.map_none, same]
    unfold State.censusEnds
    simp only [h]
  | some asked => rfl

/-- A load that has left the set already: asking whether the census has ended is then all (R161, R163). -/
theorem censusCheck_of_left (s : State) (n : LoadNo)
    (left : ∀ asked, s.control.census = some asked → n ∉ asked) : s.censusCheck = s.heardInCensus n := by
  have same : s.leaveCensus n = s := by
    cases h : s.control.census with
    | none =>
      simp only [State.leaveCensus, h, Option.map_none]
      rw [← h]
    | some asked =>
      have e : asked.filter (· != n) = asked :=
        List.filter_eq_self.mpr fun m hm => by
          have : m ≠ n := fun q => left asked h (q ▸ hm)
          simpa using this
      simp only [State.leaveCensus, h, Option.map_some, e]
      rw [← h]
  rw [← leaveCensus_censusCheck, same]

/-! ### A change of mode -/

/-- What a change of mode to GOVERNING or STORAGE makes of LAST (R158). -/
theorem gaspOnEntry_eq (s : State) (new : Mode) :
    s.gaspOnEntry new = if new = .governing ∨ new = .storage then s.gasped else s := by
  unfold State.gaspOnEntry State.gasped State.reportFalls State.fallen
  cases new <;> simp

/-- A fold that takes each load's request out of the queue as the fold's own entry has it. -/
theorem decideHeld_fold (r : SwitchReply) (es : List Held) (t : State)
    (own : ∀ e ∈ es, t.heldFor e.load = some e) (once : (es.map (·.load)).Nodup) :
    es.foldl (fun u e => u.decideHeld e.load r) t = es.foldl (fun u e => (u.withoutHeld e.load).joinReply
      { kind := .reply, src := u.own, dst := byte e.requester
        body := [0, byte r.codes.1, byte e.channel, byte r.codes.2] }) t := by
  induction es generalizing t with
  | nil => rfl
  | cons e es ih =>
    obtain ⟨fresh, once⟩ := List.nodup_cons.mp once
    have step : t.decideHeld e.load r = (t.withoutHeld e.load).joinReply
        { kind := .reply, src := t.own, dst := byte e.requester
          body := [0, byte r.codes.1, byte e.channel, byte r.codes.2] } := by
      unfold State.decideHeld; rw [own e (by simp)]; rfl
    have hold : ((t.withoutHeld e.load).joinReply
        { kind := .reply, src := t.own, dst := byte e.requester
          body := [0, byte r.codes.1, byte e.channel, byte r.codes.2] }).hold =
        t.hold.filter (·.load != e.load) := (talk_joinReply _ _).hold
    rw [List.foldl_cons, List.foldl_cons, step]
    refine ih _ (fun q hq => ?_) once
    have ne : q.load ≠ e.load := fun c => fresh (List.mem_map.mpr ⟨q, hq, c⟩)
    have hq := own q (by simp [hq])
    unfold State.heldFor at hq ⊢
    rw [hold, List.find?_filter, ← hq]
    congr 1
    funext x
    by_cases hx : x.load = q.load <;> simp [hx, ne]

/-- The withdrawals of an entry to STORAGE (R154). -/
theorem withdrawHeld_storage (s : State) (once : s.heldLoads.Nodup) :
    s.withdrawHeld s.heldTierOne .storage = s.storedWithdrawn := by
  unfold State.withdrawHeld State.storedWithdrawn
  refine decideHeld_fold (.withdrawn .storage) _ s (fun e he => ?_) ?_
  · have he := (List.mem_filter.mp he).1
    unfold State.heldFor
    unfold State.heldLoads at once
    generalize s.hold = es at he once
    induction es with
    | nil => simp at he
    | cons q es ih =>
      obtain ⟨fresh, once⟩ := List.nodup_cons.mp once
      rcases List.mem_cons.mp he with rfl | he
      · simp
      · have : q.load ≠ e.load := fun c => fresh (List.mem_map.mpr ⟨e, he, c.symm⟩)
        rw [List.find?_cons_of_neg (by simpa using this)]
        exact ih he once
  · exact List.Nodup.sublist (List.Sublist.map _ List.filter_sublist) once

/-! ### A frame heard -/

theorem Hearing.live (e : Hearing s h) (n : LoadNo) : h.live? n = s.live? n := live?_congr e.loads n

theorem Hearing.draw (e : Hearing s h) : h.draw = s.draw := by unfold State.draw; rw [e.loads]

theorem Hearing.cutTier (e : Hearing s h) : h.cutTier = s.cutTier := by unfold State.cutTier; rw [e.ladder]

theorem Hearing.ceiling (e : Hearing s h) : h.ceiling = s.ceiling := by unfold State.ceiling; rw [e.ladder]

theorem Hearing.own (e : Hearing s h) : h.own = s.own := by unfold State.own; rw [e.mgmt]

theorem Hearing.isHeld (e : Hearing s h) (n : LoadNo) : h.isHeld n = s.isHeld n := by
  unfold State.isHeld; rw [e.hold]

/-- An ON or LEVEL request that is heard comes to the Admission Unit (R119). -/
theorem asks_exec {src dst ch : Byte} {c : Instr} {w : Wish} (a : Asks src dst ch c w) (k : s.Hears src dst 3)
    (hc : ch.toNat ≤ 127) : exec c s = .next ((s.heard .panel src).admission src ch w) := by
  rcases a with ⟨rfl, rfl⟩ | ⟨level, rfl, h1, h2, rfl⟩
  · simp only [exec, execOnRequest, takeFrame_hears _ (hears_le k (show 2 ≤ 3 by omega))]
    rw [if_neg (by omega)]
  · simp only [exec, execLevelRequest, takeFrame_hears _ k]
    rw [if_neg (by omega), if_neg (by omega)]

/-- A request of a channel mapped to a live load is decided for that load (R7, R119). -/
theorem admission_reaches {src ch : Byte} {w : Wish} (r : s.Reaches ch n l) (e : Hearing s h) :
    h.admission src ch w = h.decideRequest n l src.toNat ch.toNat w := by
  obtain ⟨m, c, mp, lv⟩ := r
  have : h.mapped ch.toNat = some (n, l) := by
    unfold State.mapped; rw [e.loads, mp]; simp [e.live, lv]
  simp only [State.admission, State.takeRequest, e.mode, if_neg m, this]

end Sys2Proof.Laws
end

