-- ==== Sys2Proof/Laws/Stages.lean ====
section
/-! SUPPORT. The stages of a publish: when one of them finds nothing to do, and what the shared operations they use come to. -/

namespace Sys2Proof.Laws

set_option Elab.async false

open Sys2Proof.Machine

variable {s : State} {n : LoadNo} {l : Live} {c old : LoadConfig} {r : Runtime}

/-! ### The shared operations -/

theorem withRun_self (hl : s.live? n = some l) : s.withRun n l l.run = s := by
  have same : ({ s.loads.slots[n] with live := some { l with run := l.run } } : Slot) = s.loads.slots[n] := by
    have : s.loads.slots[n].live = some l := hl
    cases hs : s.loads.slots[n]
    simp_all
  unfold State.withRun State.setSlot
  rw [same]
  simp

theorem modifyEntry_id (s : State) (n : LoadNo) : (s.modifyEntry n fun e => e) = s := by
  unfold State.modifyEntry; simp

/-- An event for one load is handed to the blocks it concerns: to neither, to one, or to both in either order
(R27, R116, R131). -/
theorem blocksTake_load (s : State) (n : LoadNo) :
    (s.stacked n = false → s.isHeld n = false → s.blocksTake (s.stacked n) (s.isHeld n) = s) ∧
    (s.stacked n = true → s.isHeld n = false → s.blocksTake (s.stacked n) (s.isHeld n) = s.scanEvent) ∧
    (s.stacked n = false → s.isHeld n = true → s.blocksTake (s.stacked n) (s.isHeld n) = s.replayEvent) ∧
    (s.stacked n = true → s.isHeld n = true →
      s.blocksTake (s.stacked n) (s.isHeld n) = s.chosen.scanEvent.replayEvent ∨
      s.blocksTake (s.stacked n) (s.isHeld n) = s.chosen.replayEvent.scanEvent) := by
  have waiting : s.isHeld n = true → s.hold.isEmpty = false := by
    intro h
    unfold State.isHeld at h
    cases e : s.hold <;> simp_all
  refine ⟨fun a b => by rw [a, b]; rfl, fun a b => by rw [a, b]; rfl, fun a b => ?_, fun a b => ?_⟩
  · rw [a, b]; unfold State.blocksTake; simp [waiting b]
  · rw [a, b]
    unfold State.blocksTake State.eitherOrder
    simp only [waiting b, Bool.not_false, Bool.and_self]
    split
    · exact .inl rfl
    · exact .inr rfl

/-- Committed draw after a change of one record (R25, R26). -/
theorem draw_withRun (hl : s.live? n = some l) (r : Runtime) :
    (s.withRun n l r).draw + (if l.run.state.counted then l.config.draw else 0) =
      s.draw + (if r.state.counted then l.config.draw else 0) := by
  have before : s.loads.slots[n].draw = if l.run.state.counted then l.config.draw else 0 := by
    have : s.loads.slots[n].live = some l := hl
    unfold Slot.draw; rw [this]
  have after : (s.withRun n l r).loads.slots[n].draw = if r.state.counted then l.config.draw else 0 := by
    have : (s.withRun n l r).loads.slots[n].live = some { l with run := r } := live?_withRun ..
    unfold Slot.draw; rw [this]
  have others : ∀ m, m ≠ n → (s.withRun n l r).loads.slots[m].draw = s.loads.slots[m].draw := by
    intro m hm
    have := live?_setSlot s n m { s.loads.slots[n] with live := some { l with run := r } }
    rw [if_neg hm] at this
    have : (s.withRun n l r).loads.slots[m].live = s.loads.slots[m].live := this
    simp only [Slot.draw, this]
  have key : ∀ ns : List LoadNo, ns.Nodup → n ∈ ns →
      (ns.map fun m => (s.withRun n l r).loads.slots[m].draw).sum + s.loads.slots[n].draw =
        (ns.map fun m => s.loads.slots[m].draw).sum + (s.withRun n l r).loads.slots[n].draw := by
    intro ns
    induction ns with
    | nil => intro _ h; cases h
    | cons m ns ih =>
      intro once hm
      obtain ⟨first, rest⟩ := List.nodup_cons.mp once
      simp only [List.map_cons, List.sum_cons]
      by_cases e : m = n
      · subst e
        rw [List.map_congr_left fun k hk => others k fun e => first (e ▸ hk)]
        omega
      · have h1 := ih rest ((List.mem_cons.mp hm).resolve_left fun e' => e e'.symm)
        have h2 := others m e
        omega
  rw [← before, ← after]
  exact key _ (List.nodup_finRange _) (List.mem_finRange _)

/-- A census that ends leaves the management record alone. -/
theorem mgmt_censusEnds (s : State) : s.censusEnds.mgmt = s.mgmt := by
  unfold State.censusEnds
  split
  · rfl
  · dsimp only
    split
    · split
      · rfl
      · exact (acts_changeMode _ _).mgmt
    · split <;> rfl

/-! ### Stages that find nothing to do -/

theorem followDimmable_same (h : c.dimmable = old.dimmable) (r : Runtime) : r.followDimmable old c = r := by
  unfold Runtime.followDimmable; rw [h]; simp

theorem entry_followDimmable_same (h : c.dimmable = old.dimmable) (e : StackEntry) : e.followDimmable old c = e := by
  unfold StackEntry.followDimmable; rw [h]; simp

theorem publishUnstacks_of_out (h : s.stacked n = false) : s.publishUnstacks n = s := by
  unfold State.publishUnstacks; cases s.live? n <;> simp [h]

/-- A load with a module target leaves the stack without a report (R19). -/
theorem publishUnstacks_module (hl : s.live? n = some l) (hm : ∃ a b, l.config.target = .module a b)
    (hs : s.stacked n = true) :
    s.publishUnstacks n = (s.unstack n).withRun n l l.run.leaveStack := by
  obtain ⟨a, b, hm⟩ := hm
  unfold State.publishUnstacks
  rw [hl]
  simp only [hs, if_true]
  unfold State.leaveStack
  have : (s.unstack n).live? n = some l := hl
  rw [changeRun_live _ this]
  exact reportDirect_module _ (live?_withRun ..) (by simpa using hm)

theorem changeDraw_of_settled (k : s.Settled) : s.changeDraw n old c = s := by
  unfold State.changeDraw
  split
  · exact blocksTake_settled _ _ k
  · rfl

theorem changeRestore_of_kept (h : s.stacked n = false ∨ ¬ (old.restoreAuto = true ∧ c.restoreAuto = false)) :
    s.changeRestore n old c = s := by
  unfold State.changeRestore
  split
  · rename_i hh
    rcases h with h | h
    · exact publishUnstacks_of_out h
    · simp at hh; exact absurd hh h
  · rfl

theorem changeTier_of_kept (h : s.stacked n = false ∨ c.tier ≠ 0) : s.changeTier n c = s := by
  unfold State.changeTier
  split
  · rename_i hh
    rcases h with h | h
    · exact publishUnstacks_of_out h
    · exact absurd hh h
  · rfl

theorem publishShed_of_not (h : s.cuttableOn n = false) : s.publishShed n c = s := by
  unfold State.publishShed; rw [h]; rfl

theorem cuttableOn_iff (hl : s.live? n = some l) :
    s.cuttableOn n = true ↔ l.run.state = .on ∧ s.cuttable l.config = true := by
  unfold State.cuttableOn; rw [hl]; simp

theorem forces_iff : forces old c = true ↔ old.authority ≠ .forcedOff ∧ c.authority = .forcedOff := by
  unfold forces; simp

theorem authorityChange_of_same (h : c.authority = old.authority) : s.authorityChange n old c = s := by
  unfold State.authorityChange
  rw [if_neg, if_neg]
  · rintro ⟨a, b⟩; rw [h, a] at b; simp at b
  · rw [forces_iff, h]; exact fun x => x.1 x.2

end Sys2Proof.Laws
end

