-- ==== Sys2Proof/Laws/Steady.lean ====
section
/-! SUPPORT. What the decisions about loads, requests and stages leave alone beside what every decision keeps: while doze is off the whole of Mode Control and of the Sense Unit, and at any time a round in progress, the Node Side Table, the frames relayed to the panel and the two transmitters. One lemma for each shared operation. -/

namespace Sys2Proof.Laws

set_option Elab.async false

open Sys2Proof.Machine

/-- `t` has Mode Control and the Sense Unit of `s` if doze is off there, the conversions of its round if one is in progress, and its sides, panel FIFO and transmitters. -/
structure Steady (s t : State) : Prop where
  control : s.control.doze = false → t.control = s.control
  sense : s.control.doze = false → t.sense = s.sense
  round : s.sense.round ≠ none → t.sense.round = s.sense.round ∧ t.sense.converting = s.sense.converting ∧
    t.sense.slot = s.sense.slot
  sides : t.sides = s.sides
  panelFifo : t.ports.panelFifo = s.ports.panelFifo
  panelTx : t.ports.panelTx = s.ports.panelTx
  loadTx : t.ports.loadTx = s.ports.loadTx

theorem Steady.refl (s : State) : Steady s s := ⟨fun _ => rfl, fun _ => rfl, fun _ => ⟨rfl, rfl, rfl⟩, rfl, rfl, rfl, rfl⟩

theorem Steady.awake {s t : State} (h : Steady s t) (awake : s.control.doze = false) : t.control.doze = false := by
  rw [h.control awake]; exact awake

theorem Steady.trans {s t u : State} (h : Steady s t) (k : Steady t u) : Steady s u :=
  ⟨fun a => (k.control (h.awake a)).trans (h.control a), fun a => (k.sense (h.awake a)).trans (h.sense a),
   fun a => by
     obtain ⟨r, c, q⟩ := h.round a
     obtain ⟨r', c', q'⟩ := k.round (r ▸ a)
     exact ⟨r'.trans r, c'.trans c, q'.trans q⟩,
   k.sides.trans h.sides, k.panelFifo.trans h.panelFifo, k.panelTx.trans h.panelTx, k.loadTx.trans h.loadTx⟩

/-- A telling that puts no frame in the panel FIFO is steady. -/
theorem Talk.steady {s t : State} (h : Talk s t) (fifo : t.ports.panelFifo = s.ports.panelFifo) : Steady s t :=
  ⟨fun _ => h.control, fun _ => h.sense, fun _ => by rw [h.sense]; exact ⟨rfl, rfl, rfl⟩, h.sides, fifo, h.panelTx, h.loadTx⟩

/-! ### Frames and attention -/

theorem steady_raise (s : State) (c : Cause) : Steady s (s.raise c) := by
  refine (talk_raise s c).steady ?_
  unfold State.raise State.announce
  split
  · split <;> rfl
  · rfl

theorem steady_joinReply (s : State) (f : Frame) : Steady s (s.joinReply f) := by
  unfold State.joinReply
  split
  · exact ⟨fun _ => rfl, fun _ => rfl, fun _ => ⟨rfl, rfl, rfl⟩, rfl, rfl, rfl, rfl⟩
  · exact steady_raise s _

theorem steady_joinLoadFifo (s : State) (f : Frame) : Steady s (s.joinLoadFifo f) := by
  unfold State.joinLoadFifo
  split
  · exact ⟨fun _ => rfl, fun _ => rfl, fun _ => ⟨rfl, rfl, rfl⟩, rfl, rfl, rfl, rfl⟩
  · exact steady_raise s _

theorem steady_answerSwitch (s : State) (q ch : Nat) (r : SwitchReply) : Steady s (s.answerSwitch q ch r) :=
  steady_joinReply s _

theorem steady_answerManage (s : State) (dst code : Byte) (a : Answer) : Steady s (s.answerManage dst code a) :=
  steady_joinReply s _

theorem steady_reportDirect (s : State) (n : LoadNo) (before : Runtime) : Steady s (s.reportDirect n before) := by
  unfold State.reportDirect
  split
  · split
    · split
      · exact steady_joinReply s _
      · exact Steady.refl s
    · exact Steady.refl s
  · exact Steady.refl s

theorem steady_enforcedFor (s : State) (swept : List LoadNo) : Steady s (s.enforcedFor swept) := by
  unfold State.enforcedFor
  split
  · exact Steady.refl s
  · exact steady_raise s _

/-! ### Folds and free orders -/

theorem steady_foldl {α : Type} {f : State → α → State} (hf : ∀ s a, Steady s (f s a)) (l : List α) (s : State) :
    Steady s (l.foldl f s) := by
  induction l generalizing s with
  | nil => exact Steady.refl s
  | cons a l ih => exact (hf s a).trans (ih _)

theorem steady_either {f g : State → State} (hf : ∀ s, Steady s (f s)) (hg : ∀ s, Steady s (g s)) (s : State) :
    Steady s (s.eitherOrder f g) := by
  have hc : Steady s s.chosen := ⟨fun _ => rfl, fun _ => rfl, fun _ => ⟨rfl, rfl, rfl⟩, rfl, rfl, rfl, rfl⟩
  unfold State.eitherOrder
  split
  · exact hc.trans ((hf _).trans (hg _))
  · exact hc.trans ((hg _).trans (hf _))

/-! ### Records, stack and queue -/

theorem steady_changeRun (s : State) (n : LoadNo) (f : LoadConfig → Runtime → Runtime) :
    Steady s (s.changeRun n f) :=
  ⟨fun _ => rfl, fun _ => rfl, fun _ => ⟨rfl, rfl, rfl⟩, rfl, rfl, rfl, rfl⟩

theorem steady_push (s : State) (e : StackEntry) : Steady s (s.push e) := ⟨fun _ => rfl, fun _ => rfl, fun _ => ⟨rfl, rfl, rfl⟩, rfl, rfl, rfl, rfl⟩

theorem steady_unstack (s : State) (n : LoadNo) : Steady s (s.unstack n) := ⟨fun _ => rfl, fun _ => rfl, fun _ => ⟨rfl, rfl, rfl⟩, rfl, rfl, rfl, rfl⟩

theorem steady_modifyEntry (s : State) (n : LoadNo) (f : StackEntry → StackEntry) : Steady s (s.modifyEntry n f) :=
  ⟨fun _ => rfl, fun _ => rfl, fun _ => ⟨rfl, rfl, rfl⟩, rfl, rfl, rfl, rfl⟩

theorem steady_liftEntry (s : State) (n : LoadNo) : Steady s (s.liftEntry n) := by
  unfold State.liftEntry
  split
  · exact ⟨fun _ => rfl, fun _ => rfl, fun _ => ⟨rfl, rfl, rfl⟩, rfl, rfl, rfl, rfl⟩
  · exact Steady.refl s

theorem steady_setSeq (s : State) (q : Sequencer) : Steady s (s.setSeq q) := ⟨fun _ => rfl, fun _ => rfl, fun _ => ⟨rfl, rfl, rfl⟩, rfl, rfl, rfl, rfl⟩

theorem steady_restoreEnded (s : State) (n : LoadNo) : Steady s (s.restoreEnded n) := by
  unfold State.restoreEnded
  split
  · exact ⟨fun _ => rfl, fun _ => rfl, fun _ => ⟨rfl, rfl, rfl⟩, rfl, rfl, rfl, rfl⟩
  · exact Steady.refl s

theorem steady_setOwed (s : State) (n : LoadNo) (o : Option Owed) : Steady s (s.setOwed n o) := steady_changeRun ..

theorem steady_oweQuery (s : State) (n : LoadNo) : Steady s (s.oweQuery n) := steady_changeRun ..

theorem steady_oweOn (s : State) (n : LoadNo) (level : Option Nat) : Steady s (s.oweOn n level) := by
  unfold State.oweOn
  split
  · exact Steady.refl s
  · exact ⟨fun _ => rfl, fun _ => rfl, fun _ => ⟨rfl, rfl, rfl⟩, rfl, rfl, rfl, rfl⟩

theorem steady_setOutput (s : State) (d : Fin 4) (on : Bool) : Steady s (s.setOutput d on) :=
  ⟨fun _ => rfl, fun _ => rfl, fun _ => ⟨rfl, rfl, rfl⟩, rfl, rfl, rfl, rfl⟩

theorem steady_commandOff (s : State) (n : LoadNo) : Steady s (s.commandOff n) := by
  unfold State.commandOff
  split
  · exact steady_setOwed ..
  · exact steady_setOutput ..
  · exact Steady.refl s

theorem steady_commandOn (s : State) (n : LoadNo) (level : Option Nat) : Steady s (s.commandOn n level) := by
  unfold State.commandOn
  split
  · exact steady_oweOn ..
  · exact steady_setOutput ..
  · exact Steady.refl s

theorem steady_unhold (s : State) (n : LoadNo) : Steady s (s.unhold n) :=
  ⟨fun _ => rfl, fun _ => rfl, fun _ => ⟨rfl, rfl, rfl⟩, rfl, rfl, rfl, rfl⟩

theorem steady_decideHeld (s : State) (n : LoadNo) (r : SwitchReply) : Steady s (s.decideHeld n r) := by
  unfold State.decideHeld
  split
  · exact (steady_unhold s n).trans (steady_answerSwitch ..)
  · exact Steady.refl s

theorem steady_withdrawHeld (s : State) (p : Held → Bool) (r : WithdrawReason) : Steady s (s.withdrawHeld p r) :=
  steady_foldl (fun s _ => steady_decideHeld s _ _) _ s

/-! ### Restoration -/

theorem steady_relevel (s : State) (n : LoadNo) (level : Option Nat) : Steady s (s.relevel n level) := by
  unfold State.relevel
  split
  · exact ((steady_changeRun s n _).trans (steady_commandOn _ n level)).trans (steady_reportDirect ..)
  · exact Steady.refl s

theorem steady_takeHeldLevel (s : State) (n : LoadNo) (c : LoadConfig) (w : Wish) :
    Steady s (s.takeHeldLevel n c w) := by
  unfold State.takeHeldLevel
  split
  · exact Steady.refl s
  · split
    · exact steady_relevel ..
    · exact Steady.refl s

theorem steady_grantByRestore (s : State) (n : LoadNo) : Steady s (s.grantByRestore n) := by
  unfold State.grantByRestore
  split
  · exact (steady_decideHeld ..).trans (steady_takeHeldLevel ..)
  · exact Steady.refl s

theorem steady_restore (s : State) (e : StackEntry) : Steady s (s.restore e) := by
  unfold State.restore
  split
  · exact Steady.refl s
  · dsimp only
    split
    · refine Steady.trans ?_ (steady_grantByRestore _ _)
      exact (((steady_unstack s e.load).trans (steady_changeRun _ _ _)).trans (steady_oweOn _ _ _)).trans
        (steady_setSeq _ _)
    · refine Steady.trans ?_ (steady_grantByRestore _ _)
      refine Steady.trans ?_ (steady_reportDirect ..)
      exact (((steady_unstack s e.load).trans (steady_changeRun _ _ _)).trans (steady_setOutput _ _ _)).trans
        (steady_setSeq _ _)

theorem steady_scan (s : State) : Steady s s.scan := by
  unfold State.scan
  split
  · exact steady_restore ..
  · exact Steady.refl s

theorem steady_scanEvent (s : State) : Steady s s.scanEvent := by
  unfold State.scanEvent
  split
  · exact steady_scan s
  · exact Steady.refl s

/-! ### Admission -/

theorem steady_directOn (s : State) (n : LoadNo) (d : Fin 4) (w : Wish) : Steady s (s.directOn n d w) := by
  unfold State.directOn
  split
  · exact (((steady_changeRun s n _).trans (steady_unstack _ n)).trans (steady_setOutput _ d true)).trans
      (steady_reportDirect ..)
  · exact Steady.refl s

theorem steady_forwardPass (s : State) (n : LoadNo) (w : Wish) : Steady s (s.forwardPass n w) := by
  unfold State.forwardPass
  split
  · exact (steady_joinLoadFifo ..)
  · exact steady_directOn ..
  · exact Steady.refl s

theorem steady_switchOn (s : State) (n : LoadNo) (w : Wish) : Steady s (s.switchOn n w) := by
  unfold State.switchOn
  split
  · exact (((steady_unstack s n).trans (steady_changeRun _ n _)).trans (steady_commandOn _ n _)).trans
      (steady_reportDirect ..)
  · exact Steady.refl s

theorem steady_forwardToOn (s : State) (n : LoadNo) (w : Wish) : Steady s (s.forwardToOn n w) := by
  unfold State.forwardToOn
  split
  · exact steady_relevel ..
  · exact Steady.refl s

theorem steady_replayEntry (s : State) (h : Held) : Steady s (s.replayEntry h) := by
  unfold State.replayEntry
  split
  · exact Steady.refl s
  · split
    · exact ((steady_unhold ..).trans (steady_answerSwitch ..)).trans (steady_forwardPass ..)
    · exact steady_decideHeld ..
    · exact steady_decideHeld ..
    · exact steady_decideHeld ..
    · exact ((steady_unhold ..).trans (steady_switchOn ..)).trans (steady_answerSwitch ..)
    all_goals exact Steady.refl s

theorem steady_replay (s : State) : Steady s s.replay := steady_foldl steady_replayEntry _ s

theorem steady_replayEvent (s : State) : Steady s s.replayEvent := by
  unfold State.replayEvent
  split
  · exact steady_replay s
  · exact Steady.refl s

theorem steady_blocksTake (s : State) (scan replay : Bool) : Steady s (s.blocksTake scan replay) := by
  unfold State.blocksTake
  split
  · exact steady_either steady_scanEvent steady_replayEvent s
  · exact steady_scanEvent s
  · exact steady_replayEvent s
  · exact Steady.refl s

theorem steady_drawFell (s : State) : Steady s s.drawFell := steady_blocksTake s true true

theorem steady_reportDraw (s before : State) : Steady s (s.reportDraw before) := by
  unfold State.reportDraw
  split
  · exact steady_drawFell s
  · exact Steady.refl s

theorem steady_reportFalls {f : State → State} (hf : ∀ s, Steady s (f s)) (s before : State) :
    Steady s (s.reportFalls before f) := steady_foldl (fun t _ => hf t) _ s

theorem steady_reportLockout (s : State) (n : LoadNo) : Steady s (s.reportLockout n) := steady_blocksTake ..

theorem steady_replaceHeld (s : State) (n : LoadNo) (src ch : Nat) (w : Wish) :
    Steady s (s.replaceHeld n src ch w) :=
  ⟨fun _ => rfl, fun _ => rfl, fun _ => ⟨rfl, rfl, rfl⟩, rfl, rfl, rfl, rfl⟩

theorem steady_leaveStack (s : State) (n : LoadNo) : Steady s (s.leaveStack n) :=
  (steady_unstack s n).trans (steady_changeRun _ n _)

/-! ### The Shed Ladder -/

theorem steady_dropWithdrawn (s : State) (n : LoadNo) : Steady s (s.dropWithdrawn n) :=
  (steady_changeRun ..).trans (steady_commandOff ..)

theorem steady_shedRecord (s : State) (n : LoadNo) (l : Live) (cause : ShedCause) :
    Steady s (s.shedRecord n l cause) := by
  unfold State.shedRecord
  split
  · exact steady_dropWithdrawn ..
  · split
    · exact ((steady_changeRun ..).trans (steady_setOwed ..)).trans (steady_push ..)
    · split
      · exact ((steady_changeRun ..).trans (steady_commandOff ..)).trans (steady_push ..)
      · exact (steady_changeRun ..).trans (steady_commandOff ..)

theorem steady_shedOne (s : State) (n : LoadNo) (cause : ShedCause) : Steady s (s.shedOne n cause) := by
  unfold State.shedOne
  split
  · exact Steady.refl s
  · split
    · exact ((steady_shedRecord ..).trans (steady_restoreEnded ..)).trans (steady_reportDirect ..)
    · exact Steady.refl s

theorem steady_shed (s : State) (cause : ShedCause) (n : LoadNo) : Steady s (s.shed cause n) :=
  (steady_shedOne ..).trans (steady_reportDraw ..)

theorem steady_stageSheds (s : State) : Steady s s.stageSheds := steady_foldl (fun s _ => steady_shed s _ _) _ s

theorem steady_gaspRecord (s : State) (n : LoadNo) (l : Live) : Steady s (s.gaspRecord n l) := by
  unfold State.gaspRecord
  split
  · exact steady_dropWithdrawn ..
  · split
    · exact ((steady_changeRun ..).trans (steady_commandOff ..)).trans (steady_liftEntry ..)
    · exact ((steady_changeRun ..).trans (steady_commandOff ..)).trans (steady_push ..)

theorem steady_gaspOne (s : State) (n : LoadNo) : Steady s (s.gaspOne n) := by
  unfold State.gaspOne
  split
  · exact Steady.refl s
  · split
    · exact ((steady_gaspRecord ..).trans (steady_restoreEnded ..)).trans (steady_reportDirect ..)
    · exact Steady.refl s

theorem steady_gaspCuts (s : State) : Steady s s.gaspCuts := steady_foldl steady_gaspOne _ s

theorem steady_lastGasp (s : State) : Steady s s.lastGasp := by
  unfold State.lastGasp
  split
  · exact (steady_gaspCuts s).trans (steady_raise ..)
  · exact (steady_raise ..)

theorem steady_judgeOverrun (s : State) : Steady s s.judgeOverrun := by
  unfold State.judgeOverrun
  split
  · split <;> exact ⟨fun _ => rfl, fun _ => rfl, fun _ => ⟨rfl, rfl, rfl⟩, rfl, rfl, rfl, rfl⟩
  · exact ⟨fun _ => rfl, fun _ => rfl, fun _ => ⟨rfl, rfl, rfl⟩, rfl, rfl, rfl, rfl⟩

theorem steady_budgetShed (s : State) : Steady s s.budgetShed := by
  unfold State.budgetShed
  split
  · split
    · exact steady_shed ..
    · exact (steady_raise ..)
  · exact Steady.refl s

theorem steady_startExitDwell (s : State) : Steady s s.startExitDwell := ⟨fun _ => rfl, fun _ => rfl, fun _ => ⟨rfl, rfl, rfl⟩, rfl, rfl, rfl, rfl⟩

theorem steady_stopExitDwell (s : State) : Steady s s.stopExitDwell := ⟨fun _ => rfl, fun _ => rfl, fun _ => ⟨rfl, rfl, rfl⟩, rfl, rfl, rfl, rfl⟩

theorem steady_judgeNewExit (s : State) : Steady s s.judgeNewExit := by
  unfold State.judgeNewExit
  split
  · exact steady_startExitDwell s
  · exact Steady.refl s

theorem steady_setStage (s : State) (i : Fin 8) : Steady s (s.setStage i) := ⟨fun _ => rfl, fun _ => rfl, fun _ => ⟨rfl, rfl, rfl⟩, rfl, rfl, rfl, rfl⟩

theorem steady_escalate (s : State) (i : Fin 8) : Steady s (s.escalate i) :=
  (((((steady_setStage s i).trans (steady_raise ..)).trans (steady_stageSheds _)).trans
    (steady_judgeOverrun _)).trans (steady_judgeNewExit _)).trans (steady_blocksTake ..)

theorem steady_leaveStage (s : State) : Steady s s.leaveStage :=
  ((((steady_setStage s _).trans (steady_raise ..)).trans (steady_judgeOverrun _)).trans
    (steady_judgeNewExit _)).trans (steady_blocksTake ..)

theorem steady_judgeExit (s : State) (c : Change) : Steady s (s.judgeExit c) := by
  unfold State.judgeExit
  split
  · split
    · exact steady_leaveStage s
    · exact steady_startExitDwell s
  · exact steady_stopExitDwell s

theorem steady_evaluate (s : State) (c : Change) : Steady s (s.evaluate c) := by
  unfold State.evaluate
  split
  · exact steady_judgeExit ..
  · exact steady_escalate ..

theorem steady_exitExpired (s : State) : Steady s s.exitExpired := by
  unfold State.exitExpired
  dsimp only
  split
  · exact (steady_stopExitDwell s).trans (steady_leaveStage _)
  · exact (steady_stopExitDwell s).trans (steady_escalate ..)

theorem converterNext_lists (s : State) : s.converterNext.sides = s.sides ∧ s.converterNext.ports = s.ports := by
  unfold State.converterNext
  split
  · exact ⟨rfl, rfl⟩
  · split
    · exact ⟨rfl, rfl⟩
    · split <;> exact ⟨rfl, rfl⟩

theorem endDoze_lists (s : State) : s.endDoze.sides = s.sides ∧ s.endDoze.ports = s.ports := by
  unfold State.endDoze
  split
  · unfold State.roundDue
    split
    · exact converterNext_lists _
    · exact ⟨rfl, rfl⟩
  · exact ⟨rfl, rfl⟩

/-- A round in progress goes on when doze ends; the next one is owed (R47). -/
theorem endDoze_round (s : State) (h : s.sense.round ≠ none) :
    s.endDoze.sense.round = s.sense.round ∧ s.endDoze.sense.converting = s.sense.converting ∧
      s.endDoze.sense.slot = s.sense.slot := by
  unfold State.endDoze
  split
  · unfold State.roundDue
    split
    · exact absurd ‹_› h
    · exact ⟨rfl, rfl, rfl⟩
  · exact ⟨rfl, rfl, rfl⟩

theorem steady_changeEndsDoze (s : State) : Steady s s.changeEndsDoze := by
  unfold State.changeEndsDoze
  split
  · rename_i dozing
    have lists := endDoze_lists s
    refine ⟨fun a => ?_, fun a => ?_, endDoze_round s, lists.1, congrArg Ports.panelFifo lists.2,
      congrArg Ports.panelTx lists.2, congrArg Ports.loadTx lists.2⟩ <;> simp [a] at dozing
  · exact Steady.refl s

theorem steady_evaluateChange (s : State) (c : Change) : Steady s (s.evaluateChange c) := by
  unfold State.evaluateChange
  split
  · exact (steady_evaluate ..).trans (steady_judgeOverrun _)
  · exact steady_evaluate ..

theorem steady_takeOverFall (s before : State) : Steady s (s.takeOverFall before) := by
  unfold State.takeOverFall
  split
  · dsimp only
    split
    · exact (steady_changeEndsDoze s).trans (steady_evaluate ..)
    · exact (steady_changeEndsDoze s).trans
        (steady_either (fun s => steady_evaluate s overFall) steady_scanEvent _)
  · exact Steady.refl s

theorem steady_endStagger (s : State) : Steady s s.endStagger := by
  unfold State.endStagger
  split
  · exact steady_setSeq ..
  · exact Steady.refl s
  · exact Steady.refl s

/-- Acting with the scans and replays left out keeps what acting keeps. -/
theorem steady_unscanned {f : State → State} (hf : ∀ s, Steady s (f s)) (s : State) : Steady s (s.unscanned f) := by
  unfold State.unscanned
  split
  · exact ((steady_setSeq ..).trans (hf _)).trans (steady_endStagger _)
  · exact hf s

theorem steady_takeRise (s : State) (c : Change) : Steady s (s.takeRise c) :=
  steady_unscanned (steady_either (fun s => steady_evaluateChange s c) steady_lastGasp) s

theorem steady_reportStage (s before : State) : Steady s (s.reportStage before) := by
  unfold State.reportStage
  split
  · exact Steady.refl s
  · exact steady_blocksTake ..

theorem steady_lastRises (s : State) (c : Change) : Steady s (s.lastRises c) := by
  unfold State.lastRises
  split
  · exact ((steady_takeRise s c).trans (steady_reportFalls steady_drawFell _ _)).trans (steady_reportStage ..)
  · exact steady_either (fun s => steady_evaluateChange s c) steady_lastGasp s

theorem steady_takeChange (s before : State) : Steady s (s.takeChange before) := by
  unfold State.takeChange
  dsimp only
  split
  · exact Steady.refl s
  · refine Steady.trans ?_ (steady_takeOverFall ..)
    split
    · exact (steady_changeEndsDoze s).trans (steady_lastRises ..)
    · exact (steady_changeEndsDoze s).trans (steady_evaluateChange ..)

theorem steady_evaluateArrival (s : State) (c : Change) : Steady s (s.evaluateArrival c) := by
  unfold State.evaluateArrival
  split
  · exact Steady.refl s
  · exact (steady_changeEndsDoze s).trans (steady_evaluate ..)

theorem steady_budgetScan (s : State) : Steady s s.budgetScan := by
  unfold State.budgetScan
  split
  · exact steady_scanEvent s
  · exact Steady.refl s

theorem steady_takeArrival (s before : State) : Steady s (s.takeArrival before) :=
  (((steady_evaluateArrival s _).trans (steady_judgeOverrun _)).trans (steady_budgetScan _)).trans
    (steady_takeOverFall ..)

theorem steady_boundOverrun (s : State) : Steady s s.boundOverrun := ⟨fun _ => rfl, fun _ => rfl, fun _ => ⟨rfl, rfl, rfl⟩, rfl, rfl, rfl, rfl⟩

theorem steady_restage (s : State) : Steady s s.restage := by
  unfold State.restage
  split
  · exact steady_setStage ..
  · exact (steady_setStage ..).trans (steady_raise ..)

theorem steady_sweep (s : State) : Steady s s.sweep := (steady_stageSheds s).trans (steady_enforcedFor ..)

theorem steady_recompute (s : State) : Steady s s.recompute :=
  ((((((steady_restage s).trans (steady_sweep _)).trans (steady_judgeOverrun _)).trans (steady_boundOverrun _)).trans
    (steady_judgeNewExit _)).trans (steady_blocksTake ..)).trans (steady_takeOverFall ..)

/-! ### The release of stack entries -/

theorem steady_endWindDown (s : State) (n : LoadNo) : Steady s (s.endWindDown n) :=
  ((steady_unstack ..).trans (steady_changeRun ..)).trans (steady_commandOff ..)

theorem steady_departed (s : State) (n : LoadNo) (st : LoadState) : Steady s (s.departed n st) := by
  cases st <;> first | exact Steady.refl s | exact steady_endWindDown s n | exact steady_leaveStack s n

theorem steady_releaseEntry (s : State) (n : LoadNo) : Steady s (s.releaseEntry n) := by
  unfold State.releaseEntry
  split
  · dsimp only
    split
    · exact (steady_departed ..).trans (steady_reportDirect ..)
    · exact ((steady_departed ..).trans (steady_reportDirect ..)).trans (steady_reportDraw ..)
  · exact Steady.refl s

theorem steady_releaseEntries (s : State) (p : StackEntry → Bool) : Steady s (s.releaseEntries p) :=
  steady_foldl steady_releaseEntry _ s

end Sys2Proof.Laws
end

