-- ==== Sys2Proof/Tests/Slice0.lean ====
section
/-! SUPPORT. The model's own tests: an ill-formed term for each check of `wellFormed`; frames and records against bytes written out from the manual; and, for every statement with hypotheses, states and operands that meet all of them, with what the part answers there. -/

namespace Sys2Proof.Tests

set_option Elab.async false

open Sys2Proof.Machine

/-! ### Small states -/

/-- The outcome is a next state that passes. -/
def nextIs (o : Host.Outcome State Fault Refusal) (p : State → Bool) : Bool :=
  match o with
  | .next t => p t
  | .fault _ => false
  | .refused _ => false

/-- Two states agree in the parts a test looks at, load 3 among them. -/
def alike (t e : State) : Bool :=
  t.ports = e.ports && t.attention = e.attention && t.control = e.control && t.hold = e.hold
    && t.ladder.stack = e.ladder.stack && t.ladder.seq = e.ladder.seq && t.ladder.active = e.ladder.active
    && t.loads.slots[3] = e.loads.slots[3] && t.loads.outputs = e.loads.outputs
    && t.loads.decisions = e.loads.decisions && t.sense = e.sense && t.meter = e.meter
    && t.mgmt.cursor = e.mgmt.cursor && t.choices = e.choices

/-- A part past start-up, in a mode, with nothing in its tables. -/
def running (m : Mode) : State :=
  { State.reset with control := { State.reset.control with mode := m, phase := none, settle := none } }

/-- A load on output 3 of module 20. -/
def lamp : LoadConfig :=
  { homeChannel := 10, target := .module 20 3, tier := 4, draw := 50, method := .cut, minOn := 5, minOff := 7,
    hold := true, restoreAuto := true, dimmable := true, authority := .governed }

/-- A part with load 3 live and channel 10 mapped to it. -/
def cabin (m : Mode) (r : Runtime) (c : LoadConfig := lamp) : State :=
  let s := (running m).setSlot 3 { live := some { config := c, run := r } }
  { s with loads := { s.loads with map := s.loads.map.set 10 (some 3) } }

/-- An enabled stage that enters while C0 is high and exits while it is low. -/
def stage1 : Stage :=
  { enable := true, cutTier := 4, ceiling := 100, exitDwell := 0
    entry := { any := false, terms := Pattern.blank.terms.set 0 .high }
    exit := { any := false, terms := Pattern.blank.terms.set 0 .low } }

/-- Stage 1 active: cut tier 4, ceiling 10 A. -/
def staged (s : State) : State :=
  { s with ladder := { s.ladder with
      active := 1
      live := { Ladder.default with stages := Ladder.default.stages.set 0 stage1 } } }

/-- `stage1` enabled but not active. -/
def poised (s : State) : State := { staged s with ladder := { (staged s).ladder with active := 0 } }

/-- A watch on the leisure battery. -/
def lowVolts : WatchDef :=
  { enable := true, source := .leisureV, comparison := .below, threshold := 1200, hysteresis := 20, dwell := 600 }

/-- C0 high. -/
def alarmed (s : State) : State :=
  { s with watches := s.watches.set 0 { defn := lowVolts, output := true, dwell := none } }

/-- The sequencer in STAGGER. -/
def staggering (s : State) : State := s.setSeq (.stagger 900)

/-- Load 3 stands in the Shed Stack. -/
def stacked (s : State) (cause : ShedCause := .stage 1) : State :=
  s.push { load := 3, cause := cause, prior := some 40 }

/-- A request of node 30 is held for load 3. -/
def holding (s : State) : State :=
  { s with hold := [{ load := 3, requester := 30, channel := 12, wish := .level 60, lifetime := some 90000 }] }

/-- The census of a warm restart runs with this set. -/
def surveying (asked : List LoadNo) (s : State) : State := s.setCensus asked

/-- The start-up census runs with this set. -/
def starting (asked : List LoadNo) (s : State) : State :=
  { s with control := { s.control with mode := .starting, phase := some .census, census := some asked } }

/-- LAST is high. -/
def lastHigh (s : State) : State := { s with sense := { s.sense with last := true } }

/-- What every live load passes, from a check of all 48 numbers. -/
theorem live_all {s : State} (p : LoadNo → Live → Bool)
    (h : ((List.finRange 48).all fun n => (s.live? n).all (p n)) = true) :
    ∀ n l, s.live? n = some l → p n l = true := by
  intro n l hl
  have := List.all_eq_true.mp h n (List.mem_finRange n)
  rw [hl] at this
  simpa using this

/-- The checks of `Hears`. -/
def hearsB (s : State) (src dst : Byte) (length : Nat) : Bool :=
  !s.inResetHold && headerOk src dst && decide (length ≤ Config.bodyMax) && src != s.own

theorem hears_of {s : State} {src dst : Byte} {length : Nat} (h : hearsB s src dst length = true) :
    s.Hears src dst length := by
  simp only [hearsB, Bool.and_eq_true, Bool.not_eq_true', decide_eq_true_eq, bne_iff_ne] at h
  exact ⟨h.1.1.1, h.1.1.2, h.1.2, h.2⟩

theorem takes_of {s : State} {src : Byte} {length : Nat}
    (h : (hearsB s src s.own length
      && decide ((s.heard .panel src).ports.replies.length < Config.replyDepth)) = true) :
    s.Takes src length := by
  simp only [Bool.and_eq_true, decide_eq_true_eq] at h
  exact ⟨hears_of h.1, h.2⟩

theorem writes_of {s : State} {src : Byte} {length : Nat}
    (h : (hearsB s src s.own length
      && decide ((s.heard .panel src).ports.replies.length < Config.replyDepth)
      && s.mgmt.settings.managerList.contains src.toNat) = true) :
    s.TakesWrite src length := by
  simp only [Bool.and_eq_true, List.contains_iff_mem] at h
  exact ⟨takes_of (by simp [h.1]), .inr h.2⟩

/-- The manager list holds node 5 alone. -/
def managed (s : State) : State :=
  { s with mgmt := { s.mgmt with settings := { s.mgmt.settings with managers := [0, 5, 0, 0] } } }

/-- The reply list is full. -/
def jammed (s : State) : State :=
  { s with ports := { s.ports with
      replies := List.replicate 8 { kind := .reply, src := s.own, dst := 9, body := [] } } }

/-- A save is in flight. -/
def saving (s : State) : State := s.beginSave 8

/-- A managed part with load 3 OFF. -/
def desk : State := managed (cabin .governing { state := .off })

/-- A second live load, on output 4 of the same module. -/
def pump : LoadConfig := { lamp with target := .module 20 4 }

/-- Load 3 owes this; load 4, of the same tier and draw, owes that. -/
def owing (a b : Option Owed) : State :=
  (cabin .governing { state := .on, level := some 40, owed := a }).setSlot 4
    { live := some { config := { pump with dimmable := false }, run := { state := .on, owed := b } } }

/-- Load 4 SHED with its entry in the stack and the sequencer IDLE, under a ceiling that lets it be restored once
load 3 draws nothing. -/
def crampedBy (s : State) : State :=
  let s := s.setSlot 4 { live := some { config := pump, run := { state := .shed } } }
  let s := s.push { load := 4, cause := .stage 1, prior := some 40 }
  { s with ladder := { s.ladder with live := { s.ladder.live with ceiling0 := 60 } } }

/-- Load 4 is being restored. -/
def restores4 (t : State) : Bool := t.ladder.seq = .restoring 4

/-- The record of load 3. -/
def record (r : Runtime) (t : State) : Bool := (t.live? 3).any fun l => l.run = r

/-! ### Ill-formed commands -/

theorem test_wellFormed_refuses_bad_headers :
    ([.onRequest 0 0 1, .levelRequest 63 0 1 1, .offRequest 1 63 1, .onReport 0 0 1 none, .offReport 0 0 1,
      .windingReport 63 0 1, .stoppedReport 0 0 1, .faultReport 1 63 1, .meterArrival 0 0 [],
      .dataFrame .panel 0 0 [], .frameIgnored .panel .reply 0 0 [], .failedSwitchFrame 0 0 [],
      .failedStateFrame 0 0 []] : List Instr).all (fun c => !c.wellFormed) = true := by decide +kernel

theorem test_wellFormed_refuses_bad_bodies :
    ([.onRequest 1 0 128, .levelRequest 1 0 128 1, .levelRequest 1 0 1 0, .levelRequest 1 0 1 101,
      .offRequest 1 0 128, .onReport 1 0 16 none, .onReport 1 0 1 (some 0), .onReport 1 0 1 (some 101),
      .offReport 1 0 16, .windingReport 1 0 16, .stoppedReport 1 0 16, .faultReport 1 0 16,
      .meterArrival 1 0 (List.replicate 17 0), .dataFrame .load 1 0 (List.replicate 17 0),
      .frameIgnored .panel .reply 1 0 (List.replicate 17 0), .frameIgnored .panel .switch 1 0 [],
      .failedSwitchFrame 1 0 (List.replicate 17 0), .failedSwitchFrame 1 0 [1, 1],
      .failedStateFrame 1 0 (List.replicate 17 0), .failedStateFrame 1 0 [1, 1],
      .frameDiscarded .panel { kind := .data, src := 1, dst := 0, body := [7] : Frame }.wire] :
      List Instr).all (fun c => !c.wellFormed) = true := by decide +kernel

theorem test_wellFormed_refuses_bad_requesters :
    ([.readEntry 0 1 1, .writeDraft 0 1 (List.replicate 13 0), .discardDraft 63 1, .publish 0 1, .retire 0 1,
      .map 0 1 1, .readMap 0 1, .writeStage 0 (List.replicate 14 0), .readStage 0 1 1, .publishLadder 63,
      .writeWatch 0 (List.replicate 8 0), .readWatch 0 1, .writeSetting 0 1 [1], .readSetting 0 1,
      .readStatus 0, .readResetCause 0, .dumpOpen 0 1 0, .dumpNext 0, .dumpClose 0, .sense 0 1, .setMode 0 1,
      .save 0, .warmRestart 63, .attentionQuery 0, .attentionClear 0 1, .attentionEnable 0 1,
      .attentionDisable 0 1, .attentionRelease 0 1, .manageUnknownRequest 0 [99]] : List Instr).all
      (fun c => !c.wellFormed) = true := by decide +kernel

theorem test_wellFormed_refuses_bad_arguments :
    ([.readEntry 1 48 1, .readEntry 1 1 0, .readEntry 1 1 4, .writeDraft 1 48 (List.replicate 13 0),
      .writeDraft 1 1 (List.replicate 12 0), .discardDraft 1 48, .publish 1 48, .retire 1 48, .map 1 128 1,
      .map 1 1 48, .readMap 1 128, .writeStage 1 (List.replicate 13 0), .readStage 1 8 1, .readStage 1 1 0,
      .readStage 1 1 3, .writeWatch 1 (List.replicate 7 0), .readWatch 1 0, .readWatch 1 9,
      .writeSetting 1 0 [1], .writeSetting 1 9 [1], .writeSetting 1 3 [1], .writeSetting 1 7 [1],
      .writeSetting 1 1 [1, 1], .readSetting 1 0, .readSetting 1 9, .dumpOpen 1 1 48, .dumpOpen 1 2 16,
      .dumpOpen 1 4 0, .dumpOpen 1 5 1, .sense 1 0, .sense 1 5, .setMode 1 0, .setMode 1 4,
      .attentionClear 1 0, .attentionClear 1 16, .attentionEnable 1 0, .attentionEnable 1 16,
      .attentionDisable 1 0, .attentionDisable 1 16, .attentionRelease 1 0, .attentionRelease 1 16,
      .manageUnknownRequest 1 [15], .manageUnknownRequest 1 (List.replicate 17 0)] : List Instr).all
      (fun c => !c.wellFormed) = true := by decide +kernel

theorem test_wellFormed_takes_boundary_operands :
    ([.onRequest 1 0 127, .levelRequest 62 62 0 100, .offRequest 1 0 0, .onReport 1 0 15 (some 100),
      .onReport 1 0 0 none, .meterArrival 1 0 (List.replicate 16 0), .frameDiscarded .load [],
      .readEntry 1 47 3, .map 1 127 255, .readStage 1 7 2, .readWatch 1 8, .writeSetting 1 3 [0, 0, 0, 0],
      .writeSetting 1 7 [0, 60], .dumpOpen 1 4 62, .sense 1 4, .setMode 1 3, .attentionRelease 62 15,
      .manageUnknownRequest 1 [], .failedSwitchFrame 1 0 [128, 1], .failedStateFrame 1 0 [0, 6]] :
      List Instr).all Instr.wellFormed = true := by decide +kernel

/-! ### Frames and records written out -/

/-- A CRC-16 with register all ones, polynomial 1021 and no inversion gives 29B1 for the digits 1 to 9. -/
theorem test_crc16 : crc16 [0x31, 0x32, 0x33, 0x34, 0x35, 0x36, 0x37, 0x38, 0x39] = 0x29B1#16 := by
  decide +kernel

theorem test_frames_become_commands :
    (frameCommand 62 .panel ({ kind := .switch, src := 5, dst := 0, body := [10, 2, 0] } : Frame).wire
        = .offRequest 5 0 10) ∧
    (frameCommand 62 .load ({ kind := .state, src := 20, dst := 0, body := [3, 1, 60] } : Frame).wire
        = .onReport 20 0 3 (some 60)) ∧
    (frameCommand 62 .panel ({ kind := .manage, src := 5, dst := 62, body := [25, 3, 2] } : Frame).wire
        = .attentionEnable 5 3) ∧
    (frameCommand 62 .panel ({ kind := .manage, src := 5, dst := 9, body := [15] } : Frame).wire
        = .frameIgnored .panel .manage 5 9 [15]) ∧
    (frameCommand 62 .panel ({ kind := .manage, src := 5, dst := 62, body := [15, 0] } : Frame).wire
        = .manageUnknownRequest 5 [15, 0]) := by
  decide +kernel

theorem test_configuration_record_bytes :
    lamp.record = [10, 20, 3, 4, 0, 50, 28, 0, 0, 0, 5, 0, 7] ∧
    configOfRecord [10, 0, 2, 0, 1, 44, 33, 0, 60, 0, 0, 0, 0] = none ∧
    configOfRecord [10, 20, 2, 7, 1, 44, 3, 0, 60, 0, 0, 0, 0] = some
      { homeChannel := 10, target := .module 20 2, tier := 7, draw := 300, method := .wind 60 .keep,
        minOn := 0, minOff := 0, hold := false, restoreAuto := false, dimmable := false,
        authority := .governed } := by
  decide +kernel

theorem test_stage_and_watch_record_bytes :
    (staged (running .governing)).ladder.live.record 1
      = [0x49, 0, 100, 0, 0, 0x40, 0, 0, 0, 2, 0, 0, 0, 0] ∧
    Ladder.default.record 0 = [0x88, 0x17, 0x70, 6, 10, 0, 0, 0, 0, 0, 0, 0, 0, 0] ∧
    watchOfRecord [8, 0x0F, 0xFF, 0xF6, 0, 1, 0, 5] = some
      (7, { enable := true, source := .netA, comparison := .above, threshold := -10, hysteresis := 1,
            dwell := 5 }) := by
  decide +kernel

/-! ### The step and the laws -/

theorem witness_StepRunsTheFrontCommand :
    ({ cabin .governing { state := .off } with pending := [.loadTxEnd, .panelTxEnd] } : State).pending
        = .loadTxEnd :: [.panelTxEnd] ∧
    nextIs (step ({ cabin .governing { state := .off } with pending := [.loadTxEnd, .panelTxEnd] }))
      (fun t => t.pending = [.panelTxEnd]) = true := by
  decide +kernel

theorem witness_EmptyQueueLetsOneMsPass :
    State.reset.pending = [] ∧ nextIs (step State.reset) (fun t => t.control.settle = some 499) = true := by
  decide +kernel

/-- A part in GOVERNING at stage 1: load 3 SHED and in the stack, a request held for it. -/
def shedding : State := holding (staggering (stacked (staged (cabin .governing { state := .shed, prior := some 40 }))))

/-- The checks of `Lawful` for a state with the default settings and no copy of its tables. -/
def lawfulB (s : State) : Bool :=
  decide (s.ports.replies.length ≤ 8) && decide (s.ports.panelFifo.length ≤ 16)
    && decide (s.ports.loadFifo.length ≤ 16) && decide (s.hold.length ≤ 16)
    && decide (∀ i : Fin 15, (s.attention[i]).inService = true → (s.attention[i]).pending = true)
    && s.ladder.live.ordered && s.ladder.live.patterned && s.mgmt.save.isNone && s.mgmt.store.isNone
    && decide ({ s.mgmt.settings with managers := [0, 0, 0, 0] } = Settings.default)
    && decide (s.mgmt.settings.managers = [0, 0, 0, 0] ∨ s.mgmt.settings.managers = [0, 5, 0, 0])
    && decide (s.control.phase.isSome = true ↔ s.control.mode = .starting)
    && decide (s.stackLoads.Nodup)
    && decide (∀ n, n ∈ s.stackLoads ↔ s.state? n = some .shed ∨ s.state? n = some .winding)
    && ((List.finRange 48).all fun n => (s.live? n).all fun l =>
      decide (n ∈ s.stackLoads → l.config.authority = .governed ∧ 1 ≤ l.config.tier))
    && decide (s.control.mode = .bypass → s.stackLoads = [])
    && decide (∀ n, s.state? n = some .restoring → s.ladder.seq = .restoring n)
    && decide (s.heldLoads.Nodup)
    && s.heldLoads.all (fun n => (s.state? n).any fun st => st != .on && st != .restoring)
    && decide (s.control.mode = .starting → s.heldLoads = [])

theorem lawful_of {s : State} (h : lawfulB s = true) : s.Lawful := by
  simp only [lawfulB, Bool.and_eq_true, decide_eq_true_eq, Option.isNone_iff_eq_none] at h
  obtain ⟨⟨⟨⟨⟨⟨⟨⟨⟨⟨⟨⟨⟨⟨⟨⟨⟨⟨⟨b1, b2⟩, b3⟩, b4⟩, flags⟩, ordered⟩, patterned⟩, save⟩, store⟩, st⟩, ms⟩,
    phase⟩, once⟩, exact⟩, governed⟩, bypass⟩, restore⟩, heldOnce⟩, waiting⟩, starting⟩ := h
  have hs : s.mgmt.settings.Lawful := by
    have e : s.mgmt.settings = { Settings.default with managers := s.mgmt.settings.managers } := by
      rw [← st]
    rw [e]
    rcases ms with ms | ms <;> rw [ms] <;> constructor <;> decide +kernel
  exact
    { bounded := ⟨b1, b2, b3, b4⟩
      flags := flags
      tables :=
        { ladder := ⟨ordered, patterned⟩
          settings := hs
          saved := fun op ho => by rw [save] at ho; cases ho
          stored := fun c hc => by rw [store] at hc; cases hc }
      phase := phase
      stack :=
        { once := once
          exact := exact
          governed := fun n l hn hl => of_decide_eq_true (live_all (s := s)
            (fun n l => decide (n ∈ s.stackLoads → l.config.authority = .governed ∧ 1 ≤ l.config.tier))
            governed n l hl) hn
          bypass := bypass }
      restore := restore
      queue :=
        { once := heldOnce
          waiting := fun n hn => by
            have := List.all_eq_true.mp waiting n hn
            cases hst : s.state? n with
            | none => rw [hst] at this; cases this
            | some v =>
              rw [hst] at this
              simp only [Option.any_some, Bool.and_eq_true, bne_iff_ne] at this
              exact ⟨v, rfl, this.1, this.2⟩
          starting := starting } }

theorem shedding_lawful : shedding.Lawful := lawful_of (by decide +kernel)

theorem shedding_stageLaw : shedding.StageLaw where
  enabled := by decide +kernel
  live := by unfold Ladder.CutTiers; decide +kernel
  draft := fun l h => by rw [show shedding.ladder.draft = none from rfl] at h; cases h
  saved := fun op h => by rw [show shedding.mgmt.save = none from rfl] at h; cases h
  stored := fun c h => by rw [show shedding.mgmt.store = none from rfl] at h; cases h
  kept := fun hm n l hl ha hst => by
    have := live_all (s := shedding)
      (fun _ l => decide (¬ (l.run.state = .on ∨ l.run.state = .restoring))) (by decide +kernel) n l hl
    exact absurd hst (of_decide_eq_true this)

/-- The step that meets the hypotheses of EveryStepKeepsTheLaws and LawOfTheActiveStageIsKept. -/
theorem witness_EveryStepKeepsTheLaws :
    shedding.Lawful ∧ shedding.StageLaw ∧ step shedding = .next shedding.tick :=
  ⟨shedding_lawful, shedding_stageLaw, rfl⟩

/-- Load 3 is GOVERNED, of the cut tier, and neither ON nor RESTORING. -/
theorem witness_LawOfTheActiveStageIsKept :
    (shedding.live? 3).any (fun l => l.config.authority = .governed && shedding.cutTier ≤ l.config.tier
      && l.run.state = .shed) = true ∧ shedding.control.mode = .governing := by
  decide +kernel

/-! ### Records and frames -/

theorem witness_ConfigurationRecordRoundTrip :
    lamp.valid = true ∧
    ({ lamp with homeChannel := 127, tier := 7, draw := 3000, minOn := 1800, minOff := 1800,
                 target := .module 62 15, method := .wind 600 .keep } : LoadConfig).valid = true ∧
    ({ lamp with target := .direct 3, authority := .forcedOff } : LoadConfig).valid = true := by
  decide +kernel

theorem witness_StageAndWatchRecordsRoundTrip :
    (staged (running .governing)).ladder.live.stages[0].cutTier = 4 ∧
    (1 ≤ stage1.cutTier ∧ stage1.cutTier ≤ 8 ∧ stage1.ceiling ≤ 6000 ∧ stage1.exitDwell ≤ 600) ∧
    (Ladder.default.ceiling0 ≤ 6000 ∧ 1 ≤ Ladder.default.stagger ∧ Ladder.default.stagger ≤ 120 ∧
      1 ≤ Ladder.default.overrunDwell ∧ Ladder.default.overrunDwell ≤ 60) ∧
    ({ enable := true, source := .battTemp, comparison := .below, threshold := -40, hysteresis := 50,
       dwell := 600 } : WatchDef).valid = true := by
  decide +kernel

theorem witness_SettingValueRoundTrip :
    Settings.Lawful { Settings.default with managers := [62, 0, 0, 1], holdLifetime := 0, preWarning := 300 } ∧
    Settings.default.read 7 = some [0, 110] ∧ Settings.default.read 8 = some [2] :=
  ⟨by constructor <;> decide +kernel, by decide +kernel, by decide +kernel⟩

theorem witness_FrameCheckRoundTrip :
    (sourceOk 62 = true ∧ destinationOk 0 = true ∧ (List.replicate 16 (7 : Byte)).length ≤ 16) ∧
    checkFrame ({ kind := .data, src := 62, dst := 0, body := List.replicate 16 7 } : Frame).wire
      = some { kind := .data, src := 62, dst := 0, body := List.replicate 16 7 } := by
  decide +kernel

/-! ### Frames -/

/-- Doze in STORAGE, with a scan round in progress or not. -/
def dozing (round : Option (List SenseInput)) : State :=
  { running .storage with
    control := { (running .storage).control with doze := true }
    sense := { (running .storage).sense with round := round } }

theorem witness_HearingAFrameLearnsItsSource :
    ((running .storage).control.mode = .storage ∧ (running .storage).control.doze = false) ∧
    ((dozing (some [.aux])).control.doze = true ∧ (dozing (some [.aux])).sense.round = some [.aux]) ∧
    ((dozing none).control.doze = true ∧ (dozing none).sense.round = none ∧ (dozing none).sense.slot = none ∧
      (dozing none).sense.converting = none) ∧
    (1 ≤ (62 : Byte).toNat ∧ (62 : Byte).toNat ≤ 62 ∧ (running .governing).control.mode ≠ .storage) ∧
    (running .governing).side 62 = .unseen ∧
    (((running .governing).setSide 1 .load).side 1 ≠ .unseen ∧
      ((running .governing).setSide 1 .load).side 1 ≠ Line.side .panel) ∧
    (((running .governing).setSide 1 .load).heard .panel 1).attention[Cause.nodeConflict.index].pending = true := by
  decide +kernel

/-- Doze with a conversion in flight, and with a request that waits. -/
def dozingAt (slot : Option SenseRequest) (conversion : Option Conversion) : State :=
  { dozing none with sense := { (dozing none).sense with slot := slot, converting := conversion } }

/-- The end of doze behind a conversion and behind a waiting request, and a source learned in STORAGE. -/
theorem witness_HearingAFrameInStorage :
    ((dozingAt none (some ⟨.aux, true⟩)).lineActivity.sense.converting = some ⟨.aux, true⟩ ∧
      (dozingAt none (some ⟨.aux, true⟩)).lineActivity.sense.round = some [.leisure, .chassis, .aux, .supply]) ∧
    ((dozingAt (some ⟨8, .chassis, false⟩) none).lineActivity.sense.slot = some ⟨8, .chassis, true⟩ ∧
      (dozingAt (some ⟨8, .chassis, false⟩) none).lineActivity.sense.converting = some ⟨.chassis, true⟩ ∧
      (dozingAt (some ⟨8, .chassis, false⟩) none).lineActivity.sense.round =
        some [.leisure, .chassis, .aux, .supply] ∧
      !(dozingAt (some ⟨8, .chassis, false⟩) none).lineActivity.control.doze) ∧
    (((dozing none).heard .load 62).side 62 = .load ∧
      ((dozing none).heard .load 62).control.quiet = some 60000 ∧
      ((dozing none).heard .load 62).sense.converting = some ⟨.leisure, false⟩) := by
  decide +kernel

theorem witness_FramesThatGoNoFurther :
    ((running .governing).Hears 5 62 2 ∧ ignoredKind .panel .state ((62 : Byte) == (running .governing).own) = true ∧
      ignoredKind .panel .manage ((9 : Byte) == (running .governing).own) = true) ∧
    ((running .governing).inResetHold = false ∧ checkFrame [] = none ∧ checkFrame [4, 1, 0, 0, 0, 0] = none ∧
      headerOk (running .governing).own 0 = true ∧ (List.replicate 16 (0 : Byte)).length ≤ 16) ∧
    nextIs (exec (.dataFrame .load 62 0 []) (running .governing))
      (fun t => t.attention[Cause.nodeConflict.index].pending && t.side 62 == .unseen) = true ∧
    nextIs (exec (.frameDiscarded .load [4, 1, 0, 0, 0, 0]) (running .governing))
      (fun t => t.attention[Cause.lineError.index].pending && t.sides = (running .governing).sides) = true :=
  ⟨⟨hears_of (by decide +kernel), by decide +kernel⟩, by decide +kernel⟩

/-- STATE reports with no live load at their target, and before LOAD has ended. -/
theorem witness_ReportsThatAreDropped :
    (desk.Hears 20 0 3 ∧ State.reset.Hears 20 0 3 ∧ State.reset.control.phase = some .settle) ∧
    (∀ n l, desk.live? n = some l → l.config.target ≠ .module (20 : Byte).toNat (9 : Byte).toNat) ∧
    nextIs (exec (.onReport 20 0 9 (some 40)) desk) (fun t => alike t <| desk.heard .load 20) = true ∧
    nextIs (exec (.faultReport 20 0 3) State.reset) (fun t => alike t <| State.reset.heard .load 20) = true :=
  ⟨⟨hears_of (by decide +kernel), hears_of (by decide +kernel), rfl⟩,
   fun n l h => of_decide_eq_true
     (live_all (fun _ l => decide (l.config.target ≠ .module 20 9)) (by decide +kernel) n l h),
   by decide +kernel⟩

/-- Both relay FIFOs full. -/
def crowded (s : State) : State :=
  { s with ports := { s.ports with
      panelFifo := List.replicate 16 { kind := .data, src := 9, dst := 0, body := [] }
      loadFifo := List.replicate 16 { kind := .data, src := 9, dst := 0, body := [] } } }

theorem witness_DataCrossesByTheNodeSideTable :
    ((running .governing).Hears 5 0 1 ∧ (running .governing).Hears 5 9 1 ∧ (running .governing).Hears 5 62 1 ∧
      (crowded (running .governing)).Hears 5 0 1) ∧
    ((running .governing).heard .panel 5).side 9 ≠ Line.side .panel ∧
    nextIs (exec (.dataFrame .panel 5 9 [1]) (running .governing)) (fun t => t.ports.loadFifo.length = 1) = true ∧
    nextIs (exec (.dataFrame .load 5 0 [1]) (running .governing)) (fun t => t.ports.panelFifo.length = 1) = true ∧
    nextIs (exec (.dataFrame .load 5 62 [1]) (running .governing)) (fun t => t.ports.panelFifo = []) = true ∧
    nextIs (exec (.dataFrame .load 5 5 [1]) (running .governing)) (fun t => t.ports.panelFifo = []) = true ∧
    nextIs (exec (.dataFrame .panel 5 0 [1]) (crowded (running .governing)))
      (fun t => t.ports.loadFifo.length = 16 && t.attention[Cause.relayOverflow.index].pending) = true :=
  ⟨⟨hears_of (by decide +kernel), hears_of (by decide +kernel), hears_of (by decide +kernel),
    hears_of (by decide +kernel)⟩, by decide +kernel⟩

/-! ### MANAGE requests -/

theorem desk_writes (length : Nat) (h : length ≤ 16) : desk.TakesWrite 5 length :=
  have h16 : desk.TakesWrite 5 16 := writes_of (by decide +kernel)
  ⟨⟨⟨h16.1.1.1, h16.1.1.2.1, h, h16.1.1.2.2.2⟩, h16.1.2⟩, h16.2⟩

theorem witness_RequestsAreDiscardedOrRefused :
    (requestOf (.publish 5 3) = some ⟨5, 4, 2, true⟩ ∧ (jammed desk).Hears 5 (jammed desk).own 2 ∧
      8 ≤ ((jammed desk).heard .panel 5).ports.replies.length) ∧
    (desk.Takes 5 2 ∧ desk.argumentsOk (.publish 5 48) = false) ∧
    (requestOf (.publish 6 47) = some ⟨6, 4, 2, true⟩ ∧ desk.Takes 6 2 ∧ desk.argumentsOk (.publish 6 47) = true ∧
      desk.mgmt.settings.managerList ≠ [] ∧ (6 : Byte).toNat ∉ desk.mgmt.settings.managerList) ∧
    nextIs (exec (.publish 5 3) (jammed desk)) (fun t =>
      alike t <| ((jammed desk).heard .panel 5).raise .relayOverflow) = true ∧
    nextIs (exec (.publish 5 48) desk) (fun t => alike t <| (desk.heard .panel 5).withReply 5 [4, 2]) = true ∧
    nextIs (exec (.publish 6 47) desk) (fun t => alike t <| (desk.heard .panel 6).withReply 6 [4, 1]) = true :=
  ⟨⟨rfl, hears_of (by decide +kernel), by decide +kernel⟩,
   ⟨takes_of (by decide +kernel), by decide +kernel⟩,
   ⟨rfl, takes_of (by decide +kernel), by decide +kernel, by decide +kernel, by decide +kernel⟩,
   by decide +kernel⟩

theorem witness_RequestsRefusedBusyWhileSaving :
    ((saving desk).TakesWrite 5 2 ∧ (saving desk).TakesWrite 5 1) ∧ (saving desk).mgmt.save.isSome = true ∧
    (refusedWhileSaving (.publish 5 3) = true ∧ (saving desk).argumentsOk (.publish 5 3) = true) ∧
    ((saving desk).control.phase ≠ some .settle ∧ (saving desk).control.phase ≠ some .load) ∧
    nextIs (exec (.publish 5 3) (saving desk)) (fun t => alike t <| ((saving desk).heard .panel 5).withReply 5 [4, 4]) = true ∧
    nextIs (exec (.save 5) (saving desk)) (fun t => alike t <| ((saving desk).heard .panel 5).withReply 5 [22, 4]) = true :=
  ⟨⟨writes_of (by decide +kernel), writes_of (by decide +kernel)⟩, by decide +kernel⟩

theorem witness_UnknownRequestIsAnsweredBadArg :
    (desk.Takes 5 2 ∧ desk.Takes 5 0) ∧ manageCommand 5 [15, 0] = .manageUnknownRequest 5 [15, 0] ∧
    manageCommand 5 [] = .manageUnknownRequest 5 [] ∧
    nextIs (exec (.manageUnknownRequest 5 [15, 0]) desk)
      (fun t => alike t <| (desk.heard .panel 5).withReply 5 [15, 2]) = true :=
  ⟨⟨takes_of (by decide +kernel), takes_of (by decide +kernel)⟩, by decide +kernel⟩

/-- Load 3 has a draft, too. -/
def drafted (s : State) (c : LoadConfig) : State := s.setDraft 3 (some c)

theorem witness_ReadEntryReturnsTheCopy :
    desk.Takes 5 3 ∧ (desk.live? 3).isSome = true ∧ desk.live? 47 = none ∧
    (drafted desk lamp).loads.slots[3].draft = some lamp ∧ desk.loads.slots[47].draft = none ∧
    nextIs (exec (.readEntry 5 3 1) desk) (fun t => alike t <| (desk.heard .panel 5).withReply 5 ([1, 0] ++ lamp.record)) = true ∧
    nextIs (exec (.readEntry 5 3 3) desk) (fun t => alike t <| (desk.heard .panel 5).withReply 5
      [1, 0, 3, 0, 0, 0, 255, 255, 255, 255, 255, 255, 255, 255, 0, 255]) = true ∧
    nextIs (exec (.readEntry 5 47 2) desk) (fun t => alike t <| (desk.heard .panel 5).withReply 5 [1, 3]) = true ∧
    nextIs (exec (.readEntry 5 3 3) (stacked (managed (cabin .governing
        { state := .shed, prior := some 40, lockout := some 6500, owed := some .off, overdue := true, answer := some 301 }))))
      (fun t => t.ports.replies.map (·.body) = [[1, 0, 7, 0, 40, 1, 255, 255, 0, 7, 255, 255, 0, 4, 1, 0]]) = true :=
  ⟨takes_of (by decide +kernel), by decide +kernel⟩

theorem witness_MapAndSettingsAreRead :
    desk.Takes 5 2 ∧ (127 : Byte).toNat ≤ 127 ∧
    nextIs (exec (.readMap 5 8) desk) (fun t => alike t <| (desk.heard .panel 5).withReply 5
      [7, 0, 255, 255, 67, 255, 255, 255, 255, 255]) = true ∧
    nextIs (exec (.readMap 5 127) desk) (fun t => alike t <| (desk.heard .panel 5).withReply 5 [7, 0, 255]) = true ∧
    nextIs (exec (.readSetting 5 3) desk) (fun t => alike t <| (desk.heard .panel 5).withReply 5 [14, 0, 3, 0, 5, 0, 0]) = true :=
  ⟨takes_of (by decide +kernel), by decide +kernel⟩

theorem witness_StatusAndResetCauseAreReturned :
    desk.Takes 5 1 ∧
    nextIs (exec (.readStatus 5) desk) (fun t => alike t <| (desk.heard .panel 5).withReply 5
      [15, 0, 1, 0, 1, 0, 0, 0, 0, 255, 255, 0, 0, 0, 0]) = true ∧
    nextIs (exec (.readResetCause 5) desk) (fun t => alike t <| (desk.heard .panel 5).withReply 5 [16, 0, 1, 0]) = true :=
  ⟨takes_of (by decide +kernel), by decide +kernel⟩

theorem witness_WriteSettingReplacesTheSetting :
    (desk.mgmt.save = none ∧ desk.TakesWrite 5 3 ∧ desk.TakesWrite 5 6 ∧ desk.TakesWrite 5 4) ∧
    ((1 : Byte).toNat = 1 ∧ (62 : Byte).toNat ≤ 62 ∧ (50 : Byte).toNat ≤ 50 ∧ (60 : Byte).toNat ≤ 60 ∧
      (240 : Byte).toNat ≤ 240) ∧
    ((∀ x ∈ ([62, 0, 1, 0] : List Byte), x.toNat ≤ 62) ∧ (([62, 0, 1, 0] : List Byte).filter (· ≠ 0)).Nodup) ∧
    (60 ≤ (1 : Byte).toNat * 256 + (44 : Byte).toNat ∧ (1 : Byte).toNat * 256 + (44 : Byte).toNat ≤ 300) ∧
    nextIs (exec (.writeSetting 5 1 [1]) desk) (fun t => t.mgmt.settings.nodeAddress = 1 &&
      t.ports.replies = [{ kind := .reply, src := 1, dst := 5, body := [13, 0] }]) = true ∧
    nextIs (exec (.writeSetting 5 3 [62, 0, 1, 0]) desk) (fun t => t.mgmt.settings.managers = [62, 0, 1, 0]) = true ∧
    nextIs (exec (.writeSetting 5 7 [1, 44]) desk) (fun t => t.mgmt.settings.preWarning = 300) = true :=
  ⟨⟨by decide +kernel, desk_writes 3 (by decide), desk_writes 6 (by decide), desk_writes 4 (by decide)⟩,
   by decide +kernel⟩

/-- A dump cursor of node 5 is open. -/
def dumping (c : Collection) (next : Nat) (s : State) : State :=
  s.setCursor (some { owner := 5, collection := c, next := next })

theorem witness_DumpCursorIsOpenedAndClosed :
    (desk.Takes 5 3 ∧ desk.Takes 5 1 ∧ (dumping .loads 0 desk).Takes 5 1 ∧ (dumping .loads 0 desk).Takes 6 1) ∧
    ((47 : Byte).toNat ≤ 47 ∧ (15 : Byte).toNat ≤ 15 ∧ 1 ≤ (62 : Byte).toNat ∧ (62 : Byte).toNat ≤ 62) ∧
    (47 < (48 : Byte).toNat ∧ 15 < (16 : Byte).toNat ∧ 62 < (63 : Byte).toNat ∧ 4 < (5 : Byte).toNat) ∧
    desk.mgmt.cursor = none ∧ (dumping .loads 0 desk).mgmt.cursor = some ⟨5, .loads, 0⟩ ∧
    nextIs (exec (.dumpOpen 5 4 62) desk) (fun t => alike t <| ((dumping .nodes 62 (desk.heard .panel 5))).withReply 5
      [17, 0, 62]) = true ∧
    nextIs (exec (.dumpOpen 5 2 16) desk) (fun t => alike t <| (desk.heard .panel 5).withReply 5 [17, 2]) = true ∧
    nextIs (exec (.dumpClose 5) desk) (fun t => alike t <| (desk.heard .panel 5).withReply 5 [19, 3]) = true ∧
    nextIs (exec (.dumpClose 6) (dumping .loads 0 desk))
      (fun t => alike t <| ((dumping .loads 0 desk).heard .panel 6).withReply 6 [19, 1]) = true ∧
    nextIs (exec (.dumpClose 5) (dumping .loads 0 desk)) (fun t => t.mgmt.cursor = none) = true :=
  ⟨⟨takes_of (by decide +kernel), takes_of (by decide +kernel), takes_of (by decide +kernel),
    takes_of (by decide +kernel)⟩, by decide +kernel⟩

theorem witness_DumpNextReturnsTheRecords :
    ((dumping .loads 2 desk).Takes 5 1 ∧ (dumping .nodes 61 desk).Takes 5 1 ∧ (dumping .queue 0 shedding).Takes 5 1) ∧
    (dumping .loads 2 desk).mgmt.cursor = some ⟨5, .loads, 2⟩ ∧
    nextIs (exec (.dumpNext 5) (dumping .loads 2 desk)) (fun t =>
      alike t <| (dumping .loads 6 ((dumping .loads 2 desk).heard .panel 5)).withReply 5
        [18, 0, 4, 2, 0, 0, 3, 2, 3, 4, 0, 0, 5, 0, 0]) = true ∧
    nextIs (exec (.dumpNext 5) (dumping .nodes 61 desk)) (fun t =>
      alike t <| (dumping .nodes 63 ((dumping .nodes 61 desk).heard .panel 5)).withReply 5 [18, 0, 130, 61, 0, 62, 0]) = true ∧
    nextIs (exec (.dumpNext 5) (dumping .queue 0 shedding)) (fun t =>
      alike t <| (dumping .queue 1 ((dumping .queue 0 shedding).heard .panel 5)).withReply 5
        [18, 0, 129, 3, 30, 12, 2, 60, 2]) = true ∧
    nextIs (exec (.dumpNext 5) (dumping .stack 0 shedding)) (fun t =>
      t.ports.replies.map (·.body) = [[18, 0, 129, 3, 1, 40]]) = true :=
  ⟨⟨takes_of (by decide +kernel), takes_of (by decide +kernel), takes_of (by decide +kernel)⟩, by decide +kernel⟩

theorem witness_SaveTakesAndStoresTheContent :
    (desk.TakesWrite 5 1 ∧ (managed State.reset).TakesWrite 5 1) ∧
    ((saving desk).mgmt.save = some ⟨8, desk.content⟩ ∧ (saving desk).ports.replies.length < 8 ∧
      8 ≤ (jammed (saving desk)).ports.replies.length ∧ (jammed (saving desk)).mgmt.save = some ⟨8, desk.content⟩) ∧
    ((managed State.reset).control.phase = some .settle ∧ desk.control.phase ≠ some .settle ∧
      desk.control.phase ≠ some .load ∧ desk.mgmt.save = none) ∧
    nextIs (exec (.saveComplete true) (saving desk)) (fun t => t.mgmt.store = some desk.content) = true ∧
    nextIs (exec (.saveComplete false) (jammed (saving desk))) (fun t => t.mgmt.store = none && t.mgmt.save = none) = true ∧
    nextIs (exec (.save 5) (managed State.reset)) (fun t => alike t <| ((managed State.reset).heard .panel 5).withReply 5
      [22, 9]) = true ∧
    nextIs (exec (.save 5) desk) (fun t => alike t <| (desk.heard .panel 5).beginSave 5) = true :=
  ⟨⟨desk_writes 1 (by decide), writes_of (by decide +kernel)⟩, by decide +kernel⟩

/-! ### Attention -/

/-- One cause pending, and not in service. -/
def calling (s : State) : State := s.setPending .loadFault

theorem witness_OccurrenceSetsPendingAndAnnounces :
    (desk.ports.replies.length < 8 ∧ 8 ≤ (jammed desk).ports.replies.length) ∧
    (((jammed desk).raise .enforced).attention = (((jammed desk).setPending .enforced).setPending .relayOverflow).attention) ∧
    ((∀ i : Fin 15, (desk.attention[i].pending && desk.attention[i].enabled && !desk.attention[i].inService) = false) ∧
      desk.attention[Cause.enforced.index].enabled = true ∧ desk.attention[Cause.enforced.index].inService = false) ∧
    (∃ i : Fin 15, (calling desk).attention[i].pending = true ∧ (calling desk).attention[i].enabled = true ∧
      (calling desk).attention[i].inService = false) ∧
    (desk.modifyCause 14 CauseFlags.disable).attention[Cause.enforced.index].enabled = false ∧
    (desk.raise .enforced).ports.replies = [{ kind := .notice, src := 62, dst := 0, body := [64, 0] }] := by
  decide +kernel

theorem witness_AttentionQueryMarksTheFirstCause :
    (desk.Takes 5 1 ∧ (calling desk).Takes 5 1) ∧ desk.calm = true ∧ (calling desk).announceable = [3] ∧
    nextIs (exec (.attentionQuery 5) desk) (fun t => alike t <| (desk.heard .panel 5).withReply 5 [24, 0, 0, 0]) = true ∧
    nextIs (exec (.attentionQuery 5) (calling desk)) (fun t => alike t <| (((calling desk).heard .panel 5).modifyCause 3
      (fun f => { f with inService := true })).withReply 5 [24, 0, 4, 0]) = true :=
  ⟨⟨takes_of (by decide +kernel), takes_of (by decide +kernel)⟩, by decide +kernel⟩

/-- One cause pending and in service, or pending and disabled: the announceable set is empty. -/
def served (s : State) : State := s.modifyCause 14 fun _ => { pending := true, enabled := true, inService := true }

/-- A pending cause that is disabled. -/
def muted (s : State) : State := s.modifyCause 0 fun _ => { pending := true, enabled := false, inService := false }

theorem witness_AttentionControlActsOnOneCause :
    (desk.TakesWrite 5 3 ∧ (calling desk).TakesWrite 5 3 ∧ (served desk).TakesWrite 5 3 ∧ (muted desk).TakesWrite 5 3) ∧
    ((1 : Byte).toNat = (0 : Fin 15).val + 1 ∧ (15 : Byte).toNat = (14 : Fin 15).val + 1) ∧
    ((served desk).calm = true ∧ (muted desk).calm = true ∧ (calling desk).calm = false) ∧
    nextIs (exec (.attentionClear 5 4) (calling desk)) (fun t => t.attention = (desk.attention) &&
      t.ports.replies = [{ kind := .reply, src := 62, dst := 5, body := [25, 0] }]) = true ∧
    nextIs (exec (.attentionRelease 5 15) (served desk)) (fun t => t.ports.replies =
      [{ kind := .notice, src := 62, dst := 0, body := [64, 0] },
       { kind := .reply, src := 62, dst := 5, body := [25, 0] }]) = true ∧
    nextIs (exec (.attentionEnable 5 1) (muted desk)) (fun t => t.ports.replies =
      [{ kind := .notice, src := 62, dst := 0, body := [0, 1] },
       { kind := .reply, src := 62, dst := 5, body := [25, 0] }]) = true ∧
    nextIs (exec (.attentionEnable 5 16) desk) (fun t => t.ports.replies.map (·.body) = [[25, 2]]) = true ∧
    nextIs (exec (.manageUnknownRequest 5 [25, 1, 5]) desk) (fun t => t.ports.replies.map (·.body) = [[25, 2]]) = true ∧
    nextIs (exec (.attentionDisable 5 4) (calling desk)) (fun t => t.attention[3].enabled = false &&
      t.attention[3].pending) = true :=
  ⟨⟨desk_writes 3 (by decide), writes_of (by decide +kernel), writes_of (by decide +kernel),
    writes_of (by decide +kernel)⟩, by decide +kernel⟩

/-! ### Load Table, map, ladder and watches -/

theorem witness_DraftsAreWrittenAndDiscarded :
    (desk.TakesWrite 5 15 ∧ desk.TakesWrite 5 2) ∧ lamp.valid = true ∧
    (∀ out, lamp.target ≠ .module desk.mgmt.settings.nodeAddress out) ∧
    (desk.loads.slots[3].draft = none ∧ (drafted desk lamp).loads.slots[3].draft ≠ none) ∧
    nextIs (exec (.writeDraft 5 3 lamp.record) desk) (fun t =>
      alike t <| (drafted (desk.heard .panel 5) lamp).withReply 5 [2, 0]) = true ∧
    nextIs (exec (.discardDraft 5 3) (drafted desk lamp)) (fun t =>
      alike t <| (desk.heard .panel 5).withReply 5 [3, 0]) = true :=
  ⟨⟨desk_writes 15 (by decide), desk_writes 2 (by decide)⟩, by decide +kernel,
   fun out h => by simp only [lamp, Target.module.injEq] at h; exact absurd h.1 (by decide +kernel),
   by decide +kernel⟩

/-- The draft that stands in a slot 3 whose load has this record, with load 4 live beside it. -/
def publishing (r : Runtime) (new : LoadConfig) : State :=
  drafted ((managed (cabin .governing r)).setSlot 4 { live := some { config := pump, run := { state := .off } } }) new

theorem publishing_writes (r : Runtime) (new : LoadConfig) : (publishing r new).TakesWrite 5 2 := by
  have h := desk_writes 2 (by decide)
  exact ⟨⟨⟨rfl, h.1.1.2.1, by decide, h.1.1.2.2.2⟩, (by decide : 0 < 8)⟩, h.2⟩

theorem witness_PublishChecksInOrder :
    ((publishing { state := .off } pump).mgmt.save = none ∧ (saving desk).mgmt.save ≠ none ∧
      desk.loads.slots[3].draft = none) ∧
    (∃ m l, m ≠ 3 ∧ (publishing { state := .off } pump).live? m = some l ∧ l.config.target = pump.target) ∧
    ((publishing { state := .winding } lamp).state? 3 = some .winding ∧
      (publishing { state := .restoring } lamp).state? 3 = some .restoring) ∧
    (∃ l, (publishing { state := .on } { lamp with target := .direct 0 }).live? 3 = some l ∧
      l.config.target ≠ .direct 0 ∧ l.run.state ≠ .off ∧ l.run.state ≠ .unknown ∧ l.run.state ≠ .absent) ∧
    nextIs (exec (.publish 5 3) (publishing { state := .off } pump))
      (fun t => t.ports.replies = [{ kind := .reply, src := 62, dst := 5, body := [4, 2] }]) = true ∧
    nextIs (exec (.publish 5 3) (publishing { state := .winding } lamp))
      (fun t => t.ports.replies = [{ kind := .reply, src := 62, dst := 5, body := [4, 5] }]) = true ∧
    nextIs (exec (.publish 5 3) (publishing { state := .on } { lamp with target := .direct 0 }))
      (fun t => t.ports.replies = [{ kind := .reply, src := 62, dst := 5, body := [4, 6] }]) = true ∧
    nextIs (exec (.publish 5 3) (publishing { state := .on, minOn := some 9000 } { lamp with minOn := 2, dimmable := false }))
      (fun t => t.ports.replies = [{ kind := .reply, src := 62, dst := 5, body := [4, 0] }] &&
        t.loads.slots[3] = { live := some { config := { lamp with minOn := 2, dimmable := false },
                                            run := { state := .on, minOn := some 2000 } } }) = true :=
  ⟨by decide +kernel, ⟨4, _, by decide, rfl, rfl⟩, by decide +kernel,
   ⟨_, rfl, by decide, by decide, by decide, by decide⟩, by decide +kernel⟩

/-- A part whose slot 3 is DRAFT-ONLY. -/
def fresh (c : LoadConfig) : State := drafted (managed (running .governing)) c

theorem witness_PublishOfANewLoad :
    (fresh lamp).TakesWrite 5 2 ∧
    ((fresh lamp).mgmt.save = none ∧ (fresh lamp).control.census = none ∧ (fresh lamp).live? 3 = none ∧
      (fresh lamp).loads.slots[3].draft = some lamp ∧ ((fresh lamp).heard .panel 5).ports.replies.length < 7) ∧
    (∀ m l, (fresh lamp).live? m = some l → l.config.target ≠ lamp.target) ∧
    nextIs (exec (.publish 5 3) (fresh lamp)) (fun t =>
      t.ports.replies = [{ kind := .reply, src := 62, dst := 5, body := [4, 0] }] &&
      t.loads.slots[3] = { live := some { config := lamp, run := { state := .unknown, owed := some .query } } }) = true ∧
    nextIs (exec (.publish 5 3) (fresh { lamp with target := .direct 3 })) (fun t =>
      t.ports.replies = [{ kind := .state, src := 62, dst := 0, body := [10, 2, 0, 3, 0] },
                         { kind := .reply, src := 62, dst := 5, body := [4, 0] }] &&
      (t.live? 3).any (fun l => l.run = { state := .off })) = true :=
  ⟨writes_of (by decide +kernel), by decide +kernel,
   fun m l h => of_decide_eq_true (live_all (fun _ l => decide (l.config.target ≠ lamp.target)) (by decide +kernel) m l h),
   by decide +kernel⟩

/-- A new load joins the start-up census; the census of a warm restart goes on as it was. -/
theorem witness_PublishOfANewLoadInACensus :
    nextIs (exec (.publish 5 3) (starting [7] (fresh lamp))) (fun t => t.control.census = some [7, 3] &&
      record { state := .unknown, owed := some .query } t && t.ports.replies.map (·.body) = [[4, 0]]) = true ∧
    nextIs (exec (.publish 5 3) (surveying [7] (fresh lamp))) (fun t => t.control.census = some [7] &&
      record { state := .unknown, owed := some .query } t && t.ports.replies.map (·.body) = [[4, 0]]) = true := by
  decide +kernel

/-- A new direct load in a census: that of a warm restart keeps the other loads of its set, and the start-up
census ends when no live load is UNKNOWN. -/
theorem witness_PublishOfANewDirectLoadInACensus :
    (let s := fresh { lamp with target := .direct 3 }
     let bound (census : Option (List LoadNo)) (mode : Mode) (t : State) : Bool :=
       t.control.census = census && t.control.mode = mode && record { state := .off } t &&
         t.ports.replies.map (·.body) = [[10, 2, 0, 3, 0], [4, 0]]
     nextIs (exec (.publish 5 3) (surveying [7] s)) (bound (some [7]) .governing) = true ∧
       nextIs (exec (.publish 5 3) (surveying [3] s)) (bound none .governing) = true ∧
       nextIs (exec (.publish 5 3) (starting [4] (s.setSlot 4 { live := some { config := pump, run := { state := .unknown } } })))
         (bound (some [4]) .starting) = true ∧
       nextIs (exec (.publish 5 3) (starting [] s)) (bound none .bypass) = true) := by
  decide +kernel

/-- What PUBLISH of this draft makes of load 3: the frames in the reply list, its record, and a further check. -/
def published (s : State) (replies : List (List Byte)) (r : Runtime) (p : State → Bool := fun _ => true) : Bool :=
  nextIs (exec (.publish 5 3) s) fun t =>
    t.ports.replies.map (·.body) = replies && record r t && t.loads.slots[3].draft.isNone && p t

theorem witness_PublishOfALiveLoad :
    (publishing { state := .on } lamp).TakesWrite 5 2 ∧
    ((publishing { state := .on } lamp).mgmt.save = none ∧ (publishing { state := .on } lamp).control.census = none ∧
      (publishing { state := .on } lamp).Settled ∧ (staggering (stacked (publishing { state := .shed } lamp))).Settled ∧
      (staged (publishing { state := .on } lamp)).cuttable lamp = true) ∧
    (∀ m k, m ≠ 3 → (publishing { state := .on } lamp).live? m = some k → k.config.target ≠ lamp.target) ∧
    published (publishing { state := .lockout, lockout := some 6000 } { lamp with minOff := 0 }) [[4, 0]] { state := .off } = true ∧
    published (publishing { state := .on, level := some 40 } { lamp with dimmable := false }) [[4, 0]] { state := .on } = true ∧
    published (publishing { state := .off } { lamp with authority := .forcedOff }) [[64, 0], [4, 0]]
      { state := .off, owed := some .off } (fun t => t.attention[Cause.enforced.index].pending) = true ∧
    published (publishing { state := .on, minOn := some 9 } { lamp with authority := .forcedOff }) [[64, 0], [4, 0]]
      { state := .lockout, lockout := some 7000, owed := some .off } = true :=
  ⟨publishing_writes _ _,
   ⟨by decide +kernel, by decide +kernel, ⟨rfl, .inl rfl⟩, ⟨rfl, .inr (by decide +kernel)⟩, by decide +kernel⟩,
   fun m k hm h => of_decide_eq_true (live_all
     (fun n l => decide (n ≠ 3 → l.config.target ≠ lamp.target)) (by decide +kernel) m k h) hm,
   by decide +kernel⟩

/-- Publishes of a SHED load, of a load that is shed at its publish, and of a new target. -/
theorem witness_PublishOfAShedLoadOrANewTarget :
    published (staggering (stacked (publishing { state := .shed, prior := some 40, lockout := some 9000 } { lamp with restoreAuto := false })))
      [[4, 0]] { state := .lockout, lockout := some 7000 } (fun t => t.ladder.stack = []) = true ∧
    published (staggering (stacked (publishing { state := .shed, prior := some 40 } { lamp with tier := 0 })))
      [[4, 0]] { state := .off } (fun t => t.ladder.stack = []) = true ∧
    published (staggering (stacked (publishing { state := .shed, prior := some 40 } { lamp with authority := .pass })))
      [[4, 0]] { state := .off } (fun t => t.ladder.stack = []) = true ∧
    published (staggering (stacked (publishing { state := .shed, prior := some 40 } { lamp with authority := .forcedOff })))
      [[64, 0], [4, 0]] { state := .off, owed := some .off } (fun t => t.ladder.stack = []) = true ∧
    published (staggering (stacked (publishing { state := .shed, prior := some 40 } { lamp with dimmable := false })))
      [[4, 0]] { state := .shed } (fun t => t.ladder.stack = [{ load := 3, cause := .stage 1, prior := none }]) = true ∧
    published (staggering (staged ((publishing { state := .on, level := some 40 } { lamp with draw := 60 })))) [[64, 0], [4, 0]]
      { state := .shed, level := some 40, prior := some 40, owed := some .off, lockout := some 7000 }
      (fun t => t.ladder.stack = [{ load := 3, cause := .stage 1, prior := some 40 }]) = true ∧
    published (publishing { state := .absent } { lamp with target := .module 21 0 }) [[4, 0]]
      { state := .unknown, owed := some .query } = true ∧
    published (publishing { state := .unknown, owed := some .query } { lamp with target := .direct 1, draw := 0 })
      [[10, 2, 0, 3, 0], [4, 0]] { state := .off } = true := by
  decide +kernel

/-- A direct load published at its target, its lockout ended by the publish or not, and a retarget to a direct
output during the census of a warm restart. -/
theorem witness_PublishOfADirectLoad :
    (let direct : LoadConfig := { lamp with target := .direct 2 }
     let at' (c : LoadConfig) : State :=
       drafted (managed (cabin .governing { state := .lockout, lockout := some 6000 } direct)) c
     published (at' { direct with minOff := 0 }) [[10, 2, 0, 3, 0], [4, 0]] { state := .off } = true ∧
       published (at' direct) [[4, 0]] { state := .lockout, lockout := some 6000 } = true) ∧
    published (surveying [3] (publishing { state := .unknown, owed := some .query } { lamp with target := .direct 1, draw := 0 }))
      [[10, 2, 0, 3, 0], [4, 0]] { state := .off } (fun t => t.control.census = none) = true := by
  decide +kernel

/-- Publishes whose events find something to do, and their premises: a SHED load stacked under an IDLE sequencer is
restored by the rescan, or by the scan of the lockout the publish ends; a lower draw lets load 4 be restored; a
request held for a load is granted; the fall of a load forced off restores load 4; and a start-up census goes on. -/
theorem witness_PublishGivesItsEvents :
    (let s := stacked (publishing { state := .shed, prior := some 40 } lamp)
     s.stacked 3 = true ∧ s.ladder.seq = .idle ∧
       published s [[4, 0]] { state := .restoring, level := some 40, owed := some (.on (some 40) 0) }
         (fun t => t.ladder.stack = [] && t.ladder.seq = .restoring 3) = true) ∧
    (let s := stacked (publishing { state := .shed, prior := some 40, lockout := some 9 } { lamp with minOff := 0 })
     (s.live? 3).any (fun l => l.run.lockout.isSome) = true ∧
       published s [[4, 0]] { state := .restoring, level := some 40, owed := some (.on (some 40) 0) }
         (fun t => t.ladder.seq = .restoring 3) = true) ∧
    (let s := crampedBy (publishing { state := .on, level := some 40 } { lamp with draw := 5 })
     s.hold = [] ∧ s.ladder.seq = .idle ∧ published s [[4, 0]] { state := .on, level := some 40 } restores4 = true) ∧
    (let s := holding (publishing { state := .off } lamp)
     s.isHeld 3 = true ∧
       published s [[0, 4, 12, 0], [4, 0]] { state := .on, level := some 60, minOn := some 5000, owed := some (.on (some 60) 0) }
         (fun t => t.hold = []) = true) ∧
    (let s := crampedBy (publishing { state := .on, level := some 40 } { lamp with authority := .forcedOff })
     published s [[64, 0], [4, 0]] { state := .lockout, lockout := some 7000, owed := some .off } restores4 = true) ∧
    published (starting [3] (publishing { state := .unknown } lamp)) [[4, 0]] { state := .unknown }
      (fun t => t.control.census = some [3]) = true ∧
    published (publishing { state := .off } { lamp with target := .module 21 0 }) [[4, 0]]
      { state := .unknown, owed := some .query } = true := by
  decide +kernel

/-- A module load that is UNKNOWN goes to a direct output with no draw: the draw it was counted at falls away,
and load 4, which it kept off, is restored (R16, R18, R25, R108). -/
theorem test_retarget_reports_the_fall :
    (let s := crampedBy (publishing { state := .unknown } { lamp with target := .direct 1, draw := 0 })
     s.scanEvent.ladder.seq = .idle ∧
       nextIs (exec (.publish 5 3) s) (fun t => restores4 t && t.ladder.stack = []) = true) := by
  decide +kernel

theorem witness_RetireRemovesTheLiveCopy :
    (desk.TakesWrite 5 2 ∧ (publishing { state := .on } lamp).TakesWrite 5 2 ∧
      (publishing { state := .absent, owed := some .off } lamp).TakesWrite 5 2) ∧
    (desk.live? 4 = none ∧ desk.mgmt.save = none ∧ desk.control.census = none ∧ desk.hold = [] ∧
      desk.ladder.stack = []) ∧
    nextIs (exec (.retire 5 3) (publishing { state := .on } lamp))
      (fun t => t.ports.replies = [{ kind := .reply, src := 62, dst := 5, body := [5, 6] }]) = true ∧
    nextIs (exec (.retire 5 3) (publishing { state := .absent, owed := some .off } lamp))
      (fun t => t.ports.replies = [{ kind := .reply, src := 62, dst := 5, body := [5, 5] }]) = true ∧
    nextIs (exec (.retire 5 3) desk)
      (fun t => alike t <| ((desk.heard .panel 5).setSlot 3 {}).withReply 5 [5, 0]) = true :=
  ⟨⟨desk_writes 2 (by decide), publishing_writes _ _, publishing_writes _ _⟩, by decide +kernel⟩

/-- A retire of a load with a held request, and of one in a census. -/
theorem witness_RetireOfAHeldLoad :
    ((holding desk).heldFor 3).isSome = true ∧
    nextIs (exec (.retire 5 3) (holding desk)) (fun t => t.hold = [] && t.live? 3 = none &&
      t.ports.replies.map (fun f => (f.dst, f.body)) = [(30, [0, 5, 12, 14]), (5, [5, 0])]) = true ∧
    nextIs (exec (.retire 5 3) (surveying [3, 7] desk)) (fun t => t.control.census = some [7] && t.live? 3 = none) = true := by
  decide +kernel

/-- A retire of an UNKNOWN load frees the draw that kept load 4 off. -/
theorem witness_RetireReportsTheFall :
    nextIs (exec (.retire 5 3) (crampedBy (publishing { state := .unknown } lamp)))
      (fun t => restores4 t && t.live? 3 = none) = true := by
  decide +kernel

theorem witness_MapSetsTheEntry :
    (desk.TakesWrite 5 3 ∧ (saving desk).TakesWrite 5 3) ∧
    (desk.mgmt.save = none ∧ (saving desk).mgmt.save ≠ none) ∧ (127 : Byte).toNat ≤ 127 ∧
    (47 : Byte).toNat = (47 : LoadNo).val ∧
    nextIs (exec (.map 5 128 47) desk) (fun t => t.ports.replies.map (·.body) = [[6, 2]]) = true ∧
    nextIs (exec (.map 5 127 48) desk) (fun t => t.ports.replies.map (·.body) = [[6, 2]]) = true ∧
    nextIs (exec (.map 5 127 47) (saving desk)) (fun t => t.ports.replies.map (·.body) = [[6, 4]]) = true ∧
    nextIs (exec (.map 5 127 47) desk) (fun t => t.loads.map[127] = some 47 && t.loads.map[10] = some 3) = true ∧
    nextIs (exec (.map 5 10 255) desk) (fun t => t.loads.map[10] = none) = true :=
  ⟨⟨desk_writes 3 (by decide), writes_of (by decide +kernel)⟩, by decide +kernel⟩

/-- A draft ladder stands. -/
def planning (d : Ladder) (s : State) : State := { s with ladder := { s.ladder with draft := some d } }

theorem witness_StagesAreDraftedAndRead :
    (desk.TakesWrite 5 15 ∧ desk.Takes 5 3 ∧ (planning .default desk).Takes 5 3) ∧
    (stageOfRecord ((staged desk).ladder.live.record 1) = some (.upper 0 stage1) ∧
      ((staged desk).ladder.live.record 1).length = 14) ∧
    stageOfRecord [0, 0, 0, 120, 60, 0, 0, 0, 0, 0, 0, 0, 0, 0] = some (.zero 0 120 60) ∧
    (desk.ladder.draft = none ∧ (planning .default desk).ladder.draft = some .default) ∧
    nextIs (exec (.writeStage 5 ((staged desk).ladder.live.record 1)) desk)
      (fun t => t.ladder.draft = some (staged desk).ladder.live && t.ladder.live = .default) = true ∧
    nextIs (exec (.readStage 5 0 2) desk) (fun t => alike t <| (desk.heard .panel 5).withReply 5 [9, 3]) = true ∧
    nextIs (exec (.readStage 5 7 1) desk) (fun t => alike t <| (desk.heard .panel 5).withReply 5
      [9, 0, 0x87, 0x17, 0x70, 0, 0, 0, 0, 0, 0, 0, 0, 0, 0, 0]) = true :=
  ⟨⟨desk_writes 15 (by decide), takes_of (by decide +kernel), takes_of (by decide +kernel)⟩, by decide +kernel⟩

/-- An enabled stage with blank patterns. -/
def blankStage : Stage := { Stage.default with enable := true }

/-- A ladder with these stages 1 and 2. -/
def ladderOf (one two : Stage) : Ladder :=
  { Ladder.default with stages := (Ladder.default.stages.set 0 one).set 1 two }

theorem witness_PublishLadderInstallsTheDraft :
    (desk.TakesWrite 5 1 ∧ (planning .default desk).TakesWrite 5 1 ∧ (managed State.reset).TakesWrite 5 1) ∧
    (desk.mgmt.save = none ∧ desk.ladder.draft = none ∧ (managed State.reset).control.phase = some .settle) ∧
    (∃ i j : Fin 8, i < j ∧ (ladderOf stage1 { stage1 with cutTier := 5 }).enabled i = true ∧
      (ladderOf stage1 { stage1 with cutTier := 5 }).enabled j = true ∧
      (ladderOf stage1 { stage1 with cutTier := 5 }).cutTier i < (ladderOf stage1 { stage1 with cutTier := 5 }).cutTier j) ∧
    ((ladderOf stage1 blankStage).stages[1].enable = true ∧
      ∀ k : Fin 12, (ladderOf stage1 blankStage).stages[1].entry.terms[k] = .ignore) ∧
    nextIs (exec (.publishLadder 5) (saving desk)) (fun t => t.ports.replies.map (·.body) = [[10, 4]]) = true ∧
    nextIs (exec (.publishLadder 5) (managed State.reset)) (fun t => t.ports.replies.map (·.body) = [[10, 9]]) = true ∧
    nextIs (exec (.publishLadder 5) desk) (fun t => t.ports.replies.map (·.body) = [[10, 3]]) = true ∧
    nextIs (exec (.publishLadder 5) (planning (ladderOf stage1 { stage1 with cutTier := 5 }) desk))
      (fun t => t.ports.replies.map (·.body) = [[10, 7]]) = true ∧
    nextIs (exec (.publishLadder 5) (planning (ladderOf { blankStage with ceiling := 10 } Stage.default) desk))
      (fun t => t.ports.replies.map (·.body) = [[10, 8]]) = true ∧
    nextIs (exec (.publishLadder 5) (planning (ladderOf stage1 Stage.default) desk))
      (fun t => t.ports.replies.map (·.body) = [[10, 0]] && t.ladder.live = ladderOf stage1 Stage.default &&
        t.ladder.draft.isNone && t.ladder.active = 0) = true :=
  ⟨⟨desk_writes 1 (by decide), writes_of (by decide +kernel), writes_of (by decide +kernel)⟩, by decide +kernel⟩

/-- The published ladder's stage 1 is entered and sheds load 3. -/
theorem witness_PublishLadderSweeps :
    nextIs (exec (.publishLadder 5) (planning (ladderOf stage1 Stage.default)
        (alarmed (managed (cabin .governing { state := .on, level := some 40 })))))
      (fun t => t.ladder.active = 1 && t.ladder.stack = [{ load := 3, cause := .stage 1, prior := some 40 }] &&
        t.attention[Cause.stageChange.index].pending && t.attention[Cause.enforced.index].pending &&
        t.ports.replies.map (·.body) = [[0, 1], [10, 0]] &&
        record { state := .shed, level := some 40, prior := some 40, owed := some .off, lockout := some 7000 } t) = true := by
  decide +kernel

/-- A part whose leisure battery reads 11.9 V. -/
def sagging (s : State) : State := { s with sense := { s.sense with leisure := some 1190 } }

theorem witness_WatchIsWrittenAndRead :
    ((sagging desk).TakesWrite 5 9 ∧ desk.TakesWrite 5 9 ∧ desk.Takes 5 2) ∧ desk.mgmt.save = none ∧
    ((lowVolts.record 7).length = 8 ∧ watchOfRecord (lowVolts.record 7) = some (7, lowVolts)) ∧
    ((8 : Byte).toNat = (7 : WatchNo).val + 1 ∧ (1 : Byte).toNat = (0 : WatchNo).val + 1) ∧
    nextIs (exec (.writeWatch 5 (lowVolts.record 7)) (sagging desk))
      (fun t => t.watches[7] = { defn := lowVolts, output := true, dwell := none }) = true ∧
    nextIs (exec (.writeWatch 5 (lowVolts.record 7)) desk)
      (fun t => t.watches[7] = Watch.fresh lowVolts && t.ports.replies.map (·.body) = [[11, 0]]) = true ∧
    nextIs (exec (.readWatch 5 8) desk) (fun t =>
      t.ports.replies.map (·.body) = [[12, 0, 8, 0, 0, 0, 0, 0, 0, 0, 0]]) = true :=
  ⟨⟨writes_of (by decide +kernel), desk_writes 9 (by decide), takes_of (by decide +kernel)⟩, by decide +kernel⟩

/-- The watch that a WRITE WATCH makes high enters stage 1 before the answer. -/
theorem witness_WriteWatchTakesTheChange :
    nextIs (exec (.writeWatch 5 (lowVolts.record 0)) (sagging (poised desk))) (fun t => t.ladder.active = 1 &&
      t.ports.replies.map (·.body) = [[0, 1], [11, 0]]) = true := by
  decide +kernel

/-- A watch of 12.00 V below with 0.20 V hysteresis at the ends of its ranges, and one on the discharge current. -/
theorem witness_WatchSamples :
    let low : Watch := { defn := lowVolts, output := false, dwell := none }
    let net : Watch := Watch.fresh { lowVolts with source := .dischargeA, comparison := .above, threshold := 0, dwell := 0 }
    let meter : MeterValues := { current := -1, soc := 9, solar := false, alternator := false, shore := false, temperature := none }
    low.sample 1199 = { low with dwell := some 60000 } ∧ low.sample 1200 = low ∧
    { low with dwell := some 8 }.sample 1200 = low ∧
    { low with output := true }.sample 1220 = { low with output := true, dwell := some 60000 } ∧
    { low with output := true }.sample 1219 = { low with output := true } ∧
    net.takeMeter meter = { net with output := true } ∧ net.takeMeter { meter with current := 1 } = net ∧
    Watch.takeMeter meter { net with defn := { net.defn with source := .battTemp }, dwell := some 3 }
      = { net with defn := { net.defn with source := .battTemp } } := by
  decide +kernel

/-! ### Panel requests -/

/-- Channel 10 reaches load 3. -/
theorem reaches (m : Mode) (hm : m ≠ .starting) (r : Runtime) (c : LoadConfig) :
    (cabin m r c).Reaches 10 3 { config := c, run := r } :=
  ⟨hm, by decide, by show (Vector.set _ _ _)[_]? = _; simp, by
    show ((State.setSlot _ _ _).live? 3) = _
    rfl⟩

theorem cabin_hears (m : Mode) (r : Runtime) (c : LoadConfig) : (cabin m r c).Hears 5 0 3 :=
  ⟨rfl, by decide, by decide, by show (5 : Byte) ≠ byte 62; decide⟩

theorem witness_RequestSwitchesTheLoadOn :
    Asks 5 0 10 (.levelRequest 5 0 10 100) (.level 100) ∧ Asks 5 0 10 (.onRequest 5 0 10) .on ∧
    (cabin .governing { state := .off }).Hears 5 0 3 ∧
    (cabin .governing { state := .off }).Reaches 10 3 { config := lamp, run := { state := .off } } ∧
    (lamp.tier < (cabin .governing { state := .off }).cutTier ∧
      (cabin .governing { state := .off }).draw + lamp.draw ≤ (cabin .governing { state := .off }).ceiling ∧
      (cabin .governing { state := .off }).isHeld 3 = false) ∧
    nextIs (exec (.levelRequest 5 0 10 100) (stacked (cabin .governing { state := .shed, prior := some 40, overdue := true })))
      (fun t => t.ladder.stack = [] && t.loads.decisions = 1 && (t.live? 3).any (fun l => l.run =
        { state := .on, level := some 100, owed := some (.on (some 100) 0), minOn := some 5000 })) = true ∧
    nextIs (exec (.onRequest 5 0 10) (cabin .governing { state := .off } { lamp with target := .direct 2 }))
      (fun t => t.loads.outputs[2] && t.ports.replies = [{ kind := .state, src := 62, dst := 0, body := [10, 1, 100, 5, 0] }]
        && (t.live? 3).any (fun l => l.run = { state := .on, level := some 100, minOn := some 5000 })) = true :=
  ⟨.inr ⟨100, rfl, by decide, by decide, rfl⟩, .inl ⟨rfl, rfl⟩, cabin_hears _ _ _, reaches _ (by decide) _ _,
   by decide +kernel⟩

/-- A held request replaced by a granted one; a grant in BYPASS, and of a tier-0 load in STORAGE. -/
theorem witness_GrantsInEveryMode :
    ((holding (cabin .governing { state := .off })).heldFor 3).isSome = true ∧
    (cabin .bypass { state := .unknown }).Reaches 10 3 { config := lamp, run := { state := .unknown } } ∧
    (cabin .bypass { state := .lockout }).isHeld 3 = false ∧
    nextIs (exec (.levelRequest 5 0 10 70) (holding (cabin .governing { state := .off }))) (fun t =>
      t.hold = [] && record { state := .on, level := some 70, minOn := some 5000, owed := some (.on (some 70) 0) } t &&
        t.ports.replies.map (fun f => (f.dst, f.body)) = [(30, [0, 5, 12, 10])]) = true ∧
    nextIs (exec (.onRequest 5 0 10) (holding (cabin .governing { state := .off } { lamp with target := .direct 2 })))
      (fun t => t.hold = [] && t.ports.replies.map (·.body) = [[10, 1, 100, 5, 1], [0, 5, 12, 10]]) = true ∧
    nextIs (exec (.onRequest 5 0 10) (staged (cabin .bypass { state := .unknown, owed := some .query, answer := some 4 })))
      (fun t => record { state := .on, level := some 100, minOn := some 5000, owed := some (.on (some 100) 0) } t) = true ∧
    nextIs (exec (.onRequest 5 0 10) (cabin .bypass { state := .lockout, lockout := some 9 } { lamp with target := .direct 0 }))
      (fun t => t.loads.outputs[0] && record { state := .on, level := some 100, minOn := some 5000 } t) = true ∧
    nextIs (exec (.onRequest 5 0 10) (cabin .storage { state := .off, owed := some (.on (some 100) 7) } { lamp with tier := 0 }))
      (fun t => t.loads.decisions = 0 &&
        record { state := .on, level := some 100, minOn := some 5000, owed := some (.on (some 100) 7) } t) = true :=
  ⟨by decide +kernel, reaches _ (by decide) _ _, by decide +kernel⟩

theorem witness_RefusedRequestsAreAnswered :
    Asks 5 0 10 (.levelRequest 5 0 10 1) (.level 1) ∧ State.reset.Hears 5 0 3 ∧
    (cabin .governing { state := .lockout } { lamp with hold := false }).Reaches 10 3
      { config := { lamp with hold := false }, run := { state := .lockout } } ∧
    (cabin .governing { state := .off }).mapped 127 = none ∧
    nextIs (exec (.levelRequest 5 0 10 1) State.reset) (fun t => t.ports.replies.map (·.body) = [[0, 1, 10, 3]]) = true ∧
    nextIs (exec (.onRequest 5 0 127) (running .bypass)) (fun t => t.ports.replies.map (·.body) = [[0, 1, 127, 1]]) = true ∧
    nextIs (exec (.onRequest 5 0 10) (cabin .bypass { state := .off } { lamp with authority := .forcedOff }))
      (fun t => t.ports.replies.map (·.body) = [[0, 1, 10, 2]]) = true ∧
    nextIs (exec (.onRequest 5 0 10) (cabin .governing { state := .absent }))
      (fun t => t.ports.replies.map (·.body) = [[0, 1, 10, 4]]) = true ∧
    nextIs (exec (.onRequest 5 0 10) (cabin .storage { state := .lockout }))
      (fun t => t.ports.replies.map (·.body) = [[0, 1, 10, 5]]) = true ∧
    nextIs (exec (.onRequest 5 0 10) (staged (cabin .governing { state := .off } { lamp with hold := false })))
      (fun t => t.ports.replies.map (·.body) = [[0, 1, 10, 6]]) = true ∧
    nextIs (exec (.onRequest 5 0 10) (cabin .governing { state := .lockout } { lamp with hold := false }))
      (fun t => t.ports.replies.map (·.body) = [[0, 1, 10, 7]]) = true ∧
    nextIs (exec (.onRequest 5 0 10) (staged (cabin .governing { state := .off } { lamp with hold := false, tier := 0, draw := 101 })))
      (fun t => t.ports.replies.map (·.body) = [[0, 1, 10, 8]]) = true :=
  ⟨.inr ⟨1, rfl, by decide, by decide, rfl⟩, hears_of (by decide +kernel), reaches _ (by decide) _ _,
   by decide +kernel⟩

/-- OFF, and LEVEL 0, in STARTING and on a channel with no entry, and on one whose load is not live. -/
theorem witness_OffRequestsAreRefused :
    State.reset.control.mode = .starting ∧ (running .bypass).loads.map[127]? = some none ∧
    nextIs (exec (.offRequest 5 0 10) State.reset) (fun t => t.ports.replies.map (·.body) = [[0, 1, 10, 3]]) = true ∧
    nextIs (exec (.levelRequest 5 0 127 0) (running .bypass)) (fun t => t.ports.replies.map (·.body) = [[0, 1, 127, 1]]) = true ∧
    nextIs (exec (.offRequest 5 0 10) ((cabin .governing { state := .on }).setSlot 3 {}))
      (fun t => t.ports.replies.map (·.body) = [[0, 1, 10, 1]]) = true := by
  decide +kernel

/-- A Hold Queue of 16 entries for other loads. -/
def full (s : State) : State :=
  { s with hold := List.replicate 16 { load := 40, requester := 9, channel := 1, wish := .on, lifetime := none } }

theorem witness_HeldRequestsJoinTheQueue :
    (cabin .governing { state := .lockout }).Reaches 10 3 { config := lamp, run := { state := .lockout } } ∧
    (lamp.hold = true ∧ (cabin .governing { state := .lockout }).isHeld 3 = false ∧
      (full (cabin .governing { state := .winding })).isHeld 3 = false ∧
      16 ≤ (full (cabin .governing { state := .winding })).hold.length) ∧
    ((holding (cabin .governing { state := .lockout })).heldFor 3).isSome = true ∧
    nextIs (exec (.onRequest 5 0 10) (cabin .governing { state := .lockout })) (fun t =>
      t.hold = [{ load := 3, requester := 5, channel := 10, wish := .on, lifetime := some 1800000 }] &&
      t.ports.replies.map (·.body) = [[0, 2, 10, 0]]) = true ∧
    nextIs (exec (.onRequest 5 0 10) (full (cabin .governing { state := .winding }))) (fun t =>
      t.hold.length = 16 && t.ports.replies.map (·.body) = [[0, 1, 10, 9], [1, 0]]) = true ∧
    nextIs (exec (.levelRequest 5 0 10 70) (holding (cabin .governing { state := .lockout }))) (fun t =>
      t.hold = [{ load := 3, requester := 5, channel := 10, wish := .level 70, lifetime := some 90000 }] &&
      t.ports.replies.map (fun f => (f.dst, f.body)) = [(30, [0, 5, 12, 10]), (5, [0, 2, 10, 0])]) = true :=
  ⟨reaches _ (by decide) _ _, by decide +kernel⟩

theorem witness_RequestsForRunningAndPassLoads :
    (cabin .bypass { state := .on }).Reaches 10 3 { config := lamp, run := { state := .on } } ∧
    (∀ lv since, (some Owed.off) ≠ some (.on lv since)) ∧
    nextIs (exec (.levelRequest 5 0 10 70) (cabin .bypass { state := .on, owed := some .off })) (fun t =>
      t.ports.replies = [] && t.loads.decisions = 1 && (t.live? 3).any (fun l =>
        l.run = { state := .on, level := some 70, owed := some (.on (some 70) 0) })) = true ∧
    nextIs (exec (.onRequest 5 0 10) (cabin .governing { state := .restoring })) (fun t =>
      t.ports.replies.map (·.body) = [[0, 3, 10, 0]]) = true ∧
    nextIs (exec (.levelRequest 5 0 10 70) (cabin .governing { state := .off } { lamp with authority := .pass })) (fun t =>
      t.ports.loadFifo = [{ kind := .switch, src := 62, dst := 20, body := [3, 2, 70] }] && t.ports.replies = []) = true ∧
    nextIs (exec (.levelRequest 5 0 10 70) (cabin .governing { state := .restoring, level := some 40, owed := some (.on (some 40) 7) }))
      (fun t => t.ports.replies = [] && record { state := .restoring, level := some 70, owed := some (.on (some 70) 0) } t) = true ∧
    nextIs (exec (.levelRequest 5 0 10 70) (cabin .governing { state := .on, level := some 40, owed := some (.on (some 70) 7) }))
      (fun t => t.loads.decisions = 0 && record { state := .on, level := some 70, owed := some (.on (some 70) 7) } t) = true ∧
    nextIs (exec (.levelRequest 5 0 10 70) (cabin .governing { state := .on, level := some 40 } { lamp with target := .direct 3 }))
      (fun t => t.loads.outputs[3] && record { state := .on, level := some 70 } t &&
        t.ports.replies.map (·.body) = [[10, 1, 70, 5, 0]]) = true ∧
    nextIs (exec (.onRequest 5 0 10) (holding (cabin .governing { state := .off } { lamp with authority := .pass })))
      (fun t => t.hold = [] && t.ports.loadFifo.map (·.body) = [[3, 1]] &&
        t.ports.replies.map (·.body) = [[0, 5, 12, 10]]) = true ∧
    nextIs (exec (.levelRequest 5 0 10 70) (cabin .governing { state := .off } { lamp with authority := .pass, target := .direct 3 }))
      (fun t => t.loads.outputs[3] && record { state := .on, level := some 70, minOn := some 5000 } t &&
        t.ports.replies.map (·.body) = [[10, 1, 70, 5, 0]]) = true :=
  ⟨reaches _ (by decide) _ _, by intros; simp, by decide +kernel⟩

theorem witness_OffRequestTakesTheLoadOff :
    (cabin .governing { state := .on }).Reaches 10 3 { config := lamp, run := { state := .on } } ∧
    nextIs (exec (.offRequest 5 0 10) (cabin .governing { state := .on, level := some 50, minOn := some 3 })) (fun t =>
      (t.live? 3).any (fun l => l.run = { state := .lockout, lockout := some 7000, owed := some .off })) = true ∧
    nextIs (exec (.offRequest 5 0 10) (cabin .governing { state := .unknown, owed := some .query })) (fun t =>
      (t.live? 3).any (fun l => l.run = { state := .unknown, owed := some .off })) = true ∧
    nextIs (exec (.offRequest 5 0 10) (cabin .governing { state := .restoring, answer := some 4 })) (fun t =>
      (t.live? 3).any (fun l => l.run = { state := .restoring, answer := some 4, withdrawn := true, owed := some .off })) = true ∧
    nextIs (exec (.offRequest 5 0 10) (stacked (cabin .governing { state := .shed, prior := some 40, lockout := some 3 })))
      (fun t => t.ladder.stack = [] &&
        (t.live? 3).any (fun l => l.run = { state := .lockout, lockout := some 3, owed := some .off })) = true ∧
    nextIs (exec (.offRequest 5 0 10) (stacked (cabin .governing { state := .winding, grace := some 3 })))
      (fun t => t.ladder.stack.length = 1 && t.ports.replies.map (·.body) = [[0, 3, 10, 0]] &&
        (t.live? 3).any (fun l => l.run = { state := .winding, grace := some 3, userOff := true })) = true ∧
    nextIs (exec (.offRequest 5 0 10) (cabin .governing { state := .on, level := some 50 } { lamp with target := .direct 3 }))
      (fun t => !t.loads.outputs[3] && record { state := .lockout, lockout := some 7000 } t &&
        t.ports.replies.map (·.body) = [[10, 2, 0, 4, 0]]) = true ∧
    nextIs (exec (.offRequest 5 0 10) (stacked (cabin .governing { state := .shed, prior := some 40 } { lamp with target := .direct 3 })))
      (fun t => t.ladder.stack = [] && record { state := .off } t && t.ports.replies.map (·.body) = [[10, 2, 0, 3, 0]]) = true ∧
    nextIs (exec (.offRequest 5 0 10) (cabin .governing { state := .off } { lamp with target := .direct 3 }))
      (fun t => t.ports.replies = [] && record { state := .off } t) = true :=
  ⟨reaches _ (by decide) _ _, by decide +kernel⟩

/-- The OFF for a load with a held request, whose withdrawal comes first, and for a PASS load on a module. -/
theorem witness_OffWithdrawsTheHeldRequest :
    ((holding (cabin .governing { state := .off })).heldFor 3).isSome = true ∧
    nextIs (exec (.offRequest 5 0 10) (holding (cabin .governing { state := .lockout, lockout := some 8 }))) (fun t =>
      t.hold = [] && record { state := .lockout, lockout := some 8, owed := some .off } t &&
        t.ports.replies.map (fun f => (f.dst, f.body)) = [(30, [0, 5, 12, 12])]) = true ∧
    nextIs (exec (.offRequest 5 0 10) (holding (stacked (cabin .governing { state := .winding })))) (fun t =>
      t.hold = [] && record { state := .winding, userOff := true } t &&
        t.ports.replies.map (·.body) = [[0, 5, 12, 12], [0, 3, 10, 0]]) = true ∧
    nextIs (exec (.offRequest 5 0 10) (cabin .bypass { state := .on } { lamp with authority := .pass }))
      (fun t => t.ports.replies = [] && record { state := .on } t &&
        t.ports.loadFifo = [{ kind := .switch, src := 62, dst := 20, body := [3, 3] }]) = true := by
  decide +kernel

/-- The OFF of an ON load, on a module or direct, frees the draw that kept load 4 off. -/
theorem witness_OffRequestReportsTheFall :
    nextIs (exec (.offRequest 5 0 10) (crampedBy (cabin .governing { state := .on, level := some 50 }))) restores4 = true ∧
    nextIs (exec (.offRequest 5 0 10) (crampedBy (cabin .governing { state := .on } { lamp with target := .direct 3 })))
      (fun t => restores4 t && t.ports.replies.map (·.body) = [[10, 2, 0, 4, 0]]) = true := by
  decide +kernel

/-! ### Module reports and meter frames -/

/-- Output 3 of module 20 reports for load 3. -/
theorem reports (m : Mode) (r : Runtime) :
    (cabin m r).Reports 20 3 3 { config := lamp, run := r } := by
  refine ⟨rfl, by decide, rfl, rfl, fun k l hl _ => Decidable.byContradiction fun hk => ?_⟩
  have : (cabin m r).live? k = none := by
    show ((running m).setSlot 3 _).live? k = none
    rw [Laws.live?_setSlot, if_neg hk]
    show ((Vector.replicate 48 ({} : Slot))[k]).live = none
    simp
  rw [this] at hl
  cases hl

theorem cabin_hears_module (m : Mode) (r : Runtime) : (cabin m r).Hears 20 0 3 :=
  ⟨rfl, by decide, by decide, by show (20 : Byte) ≠ byte 62; decide⟩

/-- The report relayed for load 3. -/
def relayed (body : List Byte) (t : State) : Bool :=
  t.ports.panelFifo = [{ kind := .state, src := 62, dst := 0, body := body }]

theorem witness_OnReportMakesTheLoadOn :
    (cabin .governing { state := .unknown }).Hears 20 0 3 ∧
    (cabin .governing { state := .unknown }).Reports 20 3 3 { config := lamp, run := { state := .unknown } } ∧
    ((some (1 : Byte)).all (fun b => 1 ≤ b.toNat ∧ b.toNat ≤ 100) = true ∧
      (cabin .governing { state := .unknown }).cuttable lamp = false ∧
      (cabin .governing { state := .unknown }).control.census = none) ∧
    nextIs (exec (.onReport 20 0 3 none) (cabin .governing { state := .unknown, owed := some .query, answer := some 5 }))
      (fun t => relayed [10, 1, 0, 5, 0] t &&
        record { state := .on, level := some 100, owed := some .query, minOn := some 5000 } t) = true ∧
    nextIs (exec (.onReport 20 0 3 (some 40))
        ((cabin .governing { state := .restoring, level := some 40, answer := some 9 }).setSeq (.restoring 3)))
      (fun t => relayed [10, 1, 40, 5, 0] t && t.ladder.seq = .stagger 3000 &&
        record { state := .on, level := some 40, minOn := some 5000 } t) = true ∧
    nextIs (exec (.onReport 20 0 3 (some 60)) (cabin .governing { state := .on, level := some 40, owed := some (.on (some 40) 7) }))
      (fun t => relayed [10, 1, 60, 5, 0] t && record { state := .on, level := some 60, owed := some (.on (some 60) 7) } t) = true ∧
    nextIs (exec (.onReport 20 0 3 none) (cabin .governing { state := .on, level := some 40, answer := some 3 }))
      (fun t => relayed [10, 1, 0, 5, 0] t && record { state := .on, level := some 40 } t) = true :=
  ⟨cabin_hears_module _ _, reports _ _, by decide +kernel⟩

/-- ON reports of a cuttable UNKNOWN load and of a withdrawn restore. -/
theorem witness_OnReportsThatLeaveTheLoadOff :
    (cabin .storage { state := .unknown }).Reports 20 3 3 { config := lamp, run := { state := .unknown } } ∧
    (cabin .storage { state := .unknown }).cuttable lamp = true ∧
    nextIs (exec (.onReport 20 0 3 (some 60)) (cabin .storage { state := .unknown, owed := some .query, answer := some 5 }))
      (fun t => relayed [10, 1, 60, 7, 0] t && t.ladder.stack = [{ load := 3, cause := .storage, prior := some 60 }] &&
        record { state := .shed, level := some 60, prior := some 60, owed := some .off, lockout := some 7000 } t) = true ∧
    nextIs (exec (.onReport 20 0 3 none)
        ((cabin .governing { state := .restoring, withdrawn := true, owed := some .off, answer := some 9 }).setSeq (.restoring 3)))
      (fun t => relayed [10, 1, 0, 4, 0] t && t.ladder.seq = .stagger 3000 &&
        record { state := .lockout, lockout := some 7000, owed := some .off } t) = true :=
  ⟨reports _ _, by decide +kernel⟩

/-- An ON report decides the request held for its load. -/
theorem witness_OnReportDecidesTheHeldRequest :
    (((holding (cabin .governing { state := .off })).heldFor 3).isSome = true ∧
      (holding (cabin .governing { state := .off })).cuttable lamp = false) ∧
    nextIs (exec (.onReport 20 0 3 (some 40)) (holding (cabin .governing { state := .off, owed := some .off })))
      (fun t => relayed [10, 1, 40, 5, 1] t && t.hold = [] && t.ports.replies.map (fun f => (f.dst, f.body)) = [(30, [0, 4, 12, 0])] &&
        record { state := .on, level := some 60, minOn := some 5000, owed := some (.on (some 60) 0) } t) = true ∧
    nextIs (exec (.onReport 20 0 3 (some 40)) (holding (cabin .governing { state := .off } { lamp with authority := .pass })))
      (fun t => relayed [10, 1, 40, 5, 1] t && t.hold = [] && t.ports.replies.map (·.body) = [[0, 4, 12, 0]] &&
        t.ports.loadFifo.map (·.body) = [[3, 2, 60]] && record { state := .on, level := some 40, minOn := some 5000 } t) = true ∧
    nextIs (exec (.onReport 20 0 3 (some 40)) (holding (cabin .bypass { state := .off } { lamp with authority := .forcedOff })))
      (fun t => relayed [10, 1, 40, 5, 1] t && t.hold = [] && t.ports.replies.map (·.body) = [[0, 5, 12, 2]] &&
        record { state := .on, level := some 40, minOn := some 5000 } t) = true := by
  decide +kernel

theorem witness_LocalSwitchOnIsEnforced :
    (cabin .storage { state := .off }).Reports 20 3 3 { config := lamp, run := { state := .off } } ∧
    (cabin .storage { state := .off }).cuttable lamp = true ∧
    nextIs (exec (.onReport 20 0 3 (some 100)) (cabin .storage { state := .off }))
      (fun t => relayed [10, 1, 100, 7, 0] t && t.attention[Cause.localOn.index].pending &&
        t.ladder.stack = [{ load := 3, cause := .storage, prior := some 100 }] &&
        record { state := .shed, level := some 100, prior := some 100, owed := some .off, lockout := some 7000 } t) = true ∧
    nextIs (exec (.onReport 20 0 3 (some 1)) (stacked (cabin .governing { state := .shed, prior := some 40, overdue := true })))
      (fun t => relayed [10, 1, 1, 7, 2] t && t.attention[Cause.localOn.index].pending && t.ladder.stack.length = 1 &&
        record { state := .shed, prior := some 40, owed := some .off, lockout := some 7000, overdue := true } t) = true ∧
    nextIs (exec (.onReport 20 0 3 (some 1)) (holding (staged (cabin .governing { state := .off } { lamp with restoreAuto := false }))))
      (fun t => relayed [10, 1, 1, 4, 1] t && t.attention[Cause.localOn.index].pending && t.ladder.stack = [] &&
        t.hold.length = 1 && record { state := .lockout, owed := some .off, lockout := some 7000 } t) = true :=
  ⟨reports _ _, by decide +kernel⟩

theorem witness_OffAndStoppedReportsSettleTheLoad :
    (cabin .governing { state := .on }).Reports 20 3 3 { config := lamp, run := { state := .on } } ∧
    nextIs (exec (.offReport 20 0 3) (cabin .governing { state := .on, level := some 9, answer := some 2 }))
      (fun t => relayed [10, 2, 0, 4, 0] t && record { state := .lockout, lockout := some 7000 } t) = true ∧
    nextIs (exec (.offReport 20 0 3) (cabin .governing { state := .absent, overdue := true }))
      (fun t => relayed [10, 2, 0, 3, 0] t && record { state := .off } t) = true ∧
    nextIs (exec (.stoppedReport 20 0 3) ((cabin .governing { state := .restoring }).setSeq (.restoring 3)))
      (fun t => relayed [10, 4, 0, 3, 0] t && record { state := .off } t && t.ladder.seq = .stagger 3000) = true ∧
    nextIs (exec (.stoppedReport 20 0 3) (cabin .governing { state := .lockout, lockout := some 3, overdue := true }))
      (fun t => relayed [10, 4, 0, 4, 2] t && record { state := .lockout, lockout := some 3, overdue := true } t) = true ∧
    nextIs (exec (.stoppedReport 20 0 3) (staggering (stacked (cabin .governing { state := .winding, level := some 40, prior := some 40, grace := some 8 }))))
      (fun t => relayed [10, 4, 0, 7, 0] t && t.ladder.stack.length = 1 &&
        record { state := .shed, level := some 40, prior := some 40, lockout := some 7000 } t) = true ∧
    nextIs (exec (.offReport 20 0 3) (staggering (stacked (cabin .governing { state := .winding, userOff := true }))))
      (fun t => relayed [10, 2, 0, 4, 0] t && t.ladder.stack = [] &&
        record { state := .lockout, lockout := some 7000 } t) = true :=
  ⟨reports _ _, by decide +kernel⟩

theorem witness_WindingAndFaultReports :
    (cabin .governing { state := .unknown }).Reports 20 3 3 { config := lamp, run := { state := .unknown } } ∧
    nextIs (exec (.windingReport 20 0 3) (cabin .governing { state := .unknown }))
      (fun t => relayed [10, 3, 0, 3, 0] t && record { state := .off } t) = true ∧
    nextIs (exec (.windingReport 20 0 3) (staggering (stacked (cabin .governing { state := .winding, answer := some 2, overdue := true }))))
      (fun t => relayed [10, 3, 0, 6, 2] t && record { state := .winding, overdue := true } t) = true ∧
    nextIs (exec (.faultReport 20 0 3) (staggering (stacked (cabin .governing { state := .shed, prior := some 4, owed := some .off }))))
      (fun t => relayed [10, 5, 0, 3, 0] t && record { state := .off, owed := some .off } t && t.ladder.stack = [] &&
        t.attention[Cause.loadFault.index].pending) = true ∧
    nextIs (exec (.faultReport 20 0 3) ((cabin .governing { state := .restoring, owed := some (.on none 0), answer := some 9 }).setSeq (.restoring 3)))
      (fun t => relayed [10, 5, 0, 3, 0] t && record { state := .off } t && t.ladder.seq = .stagger 3000) = true :=
  ⟨reports _ _, by decide +kernel⟩

/-- A FAULT report of a load with a held request. -/
theorem witness_FaultWithdrawsTheHeldRequest :
    ((holding (cabin .governing { state := .lockout, lockout := some 9 })).heldFor 3).isSome = true ∧
    nextIs (exec (.faultReport 20 0 3) (holding (cabin .governing { state := .lockout, lockout := some 9 }))) (fun t =>
      t.hold = [] && record { state := .off } t && relayed [10, 5, 0, 3, 0] t &&
        (t.ports.replies.map (·.body)).head? = some [0, 5, 12, 13]) = true := by
  decide +kernel

/-- Each report that ends a counted load's draw frees what kept load 4 off, before it is relayed. -/
theorem witness_ReportsReportTheFall :
    (let frees (c : Instr) (body : List Byte) (r r' : Runtime) (c3 : LoadConfig := lamp) : Bool :=
       nextIs (exec c (crampedBy (cabin .governing r c3))) fun t => restores4 t && relayed body t && record r' t
     frees (.stoppedReport 20 0 3) [10, 4, 0, 7, 0] { state := .winding, level := some 40, prior := some 40, grace := some 8 }
         { state := .shed, level := some 40, prior := some 40, lockout := some 7000 } = true ∧
       frees (.offReport 20 0 3) [10, 2, 0, 3, 0] { state := .unknown } { state := .off } = true ∧
       frees (.windingReport 20 0 3) [10, 3, 0, 3, 0] { state := .unknown } { state := .off } = true ∧
       frees (.faultReport 20 0 3) [10, 5, 0, 3, 0] { state := .on } { state := .off } = true) ∧
    (let s := staged (crampedBy (cabin .governing { state := .unknown }))
     s.cuttable lamp = true ∧ s.ladder.seq = .idle ∧ s.ladder.stack.length = 1 ∧
       nextIs (exec (.onReport 20 0 3 none) s) (fun t => relayed [10, 1, 0, 7, 0] t && t.ladder.stack.length = 2) = true) := by
  decide +kernel

/-- Reports of loads with a held request and no nominal draw; the request stays. -/
theorem witness_ReportsOfHeldLoads :
    (let told (c : Instr) (body : List Byte) (r r' : Runtime) : Bool :=
       nextIs (exec c (holding (cabin .governing r { lamp with draw := 0 }))) fun t =>
         relayed body t && t.hold.length = 1 && record r' t
     told (.stoppedReport 20 0 3) [10, 4, 0, 7, 1] { state := .winding } { state := .shed, lockout := some 7000 } = true ∧
       told (.offReport 20 0 3) [10, 2, 0, 4, 1] { state := .on } { state := .lockout, lockout := some 7000 } = true ∧
       told (.windingReport 20 0 3) [10, 3, 0, 3, 1] { state := .absent } { state := .off } = true ∧
       told (.windingReport 20 0 3) [10, 3, 0, 6, 3] { state := .winding, overdue := true }
         { state := .winding, overdue := true } = true) := by
  decide +kernel

/-- Reports in a census: that of a warm restart ends with its last load, and the start-up census when no live
load is UNKNOWN, in BYPASS after a failed store check; otherwise it goes on without the load. -/
theorem witness_ReportsInACensus :
    (let s := surveying [3] (cabin .governing { state := .unknown })
     nextIs (exec (.onReport 20 0 3 none) s) (fun t => t.control.census = none && relayed [10, 1, 0, 5, 0] t) = true ∧
       nextIs (exec (.offReport 20 0 3) (surveying [7, 3] s)) (fun t => t.control.census = some [7]) = true) ∧
    (let s := starting [3] (cabin .governing { state := .unknown })
     nextIs (exec (.offReport 20 0 3) s) (fun t => t.control.mode = .bypass && t.control.phase = none &&
         t.control.census = none && record { state := .off } t) = true ∧
       nextIs (exec (.windingReport 20 0 3) { s with
           control := { s.control with storeValid := true }
           mgmt := { s.mgmt with settings := { s.mgmt.settings with startMode := .governing } } })
         (fun t => t.control.mode = .governing) = true ∧
       nextIs (exec (.faultReport 20 0 3) (starting [3, 4] (s.setSlot 4 { live := some { config := pump, run := { state := .unknown } } })))
         (fun t => t.control.mode = .starting && t.control.census = some [4]) = true ∧
       nextIs (exec (.onReport 20 0 3 (some 9)) (starting [3] (stacked (cabin .governing { state := .shed }))))
         (fun t => t.control.mode = .bypass && t.ladder.stack = []) = true) := by
  decide +kernel

/-- ON reports of a WINDING load, and of an UNKNOWN and a withdrawn RESTORING load with a request held, which stays. -/
theorem witness_OnReportsWithoutADecision :
    nextIs (exec (.onReport 20 0 3 (some 9))
        (staggering (stacked (cabin .governing { state := .winding, answer := some 2, grace := some 8 }))))
      (fun t => relayed [10, 1, 9, 6, 0] t && t.ladder.stack.length = 1 &&
        record { state := .winding, grace := some 8 } t) = true ∧
    (let s := holding (staged (cabin .governing { state := .unknown } { lamp with draw := 0 }))
     s.isHeld 3 = true ∧ s.cuttable { lamp with draw := 0 } = true ∧
       nextIs (exec (.onReport 20 0 3 (some 9)) s) (fun t => relayed [10, 1, 9, 7, 1] t && t.hold.length = 1 &&
         t.ladder.stack = [{ load := 3, cause := .stage 1, prior := some 9 }]) = true) ∧
    nextIs (exec (.onReport 20 0 3 none)
        (holding ((cabin .governing { state := .restoring, withdrawn := true, owed := some .off } { lamp with draw := 0 }).setSeq (.restoring 3))))
      (fun t => relayed [10, 1, 0, 4, 1] t && t.ladder.seq = .stagger 3000 && t.hold.length = 1) = true := by
  decide +kernel

/-- WINDING reports of a withdrawn RESTORING load, and of the loads they leave as they are. -/
theorem witness_WindingReportsByState :
    nextIs (exec (.windingReport 20 0 3)
        ((cabin .governing { state := .restoring, withdrawn := true, owed := some .off, answer := some 9 }).setSeq (.restoring 3)))
      (fun t => relayed [10, 3, 0, 3, 0] t && t.ladder.seq = .stagger 3000 &&
        record { state := .off, owed := some .off } t) = true ∧
    ([((.off : LoadState), (3 : Byte)), (.lockout, 4), (.on, 5), (.winding, 6), (.shed, 7), (.restoring, 8)].all fun p =>
      nextIs (exec (.windingReport 20 0 3) (cabin .governing { state := p.1, answer := some 9, overdue := true }))
        (fun t => relayed [10, 3, 0, p.2, 2] t && record { state := p.1, overdue := true } t)) = true := by
  decide +kernel

/-- The change of mode out of STARTING, into each mode. -/
theorem witness_StartingEndsInAMode :
    (let s := staggering (starting [] (stacked (cabin .governing { state := .shed, prior := some 40 })))
     (s.control.mode = .starting ∧ s.Lawful) ∧
       (s.changeMode .governing).ladder.stack.length = 1 ∧
       (s.changeMode .bypass).ladder.stack = [] ∧ record { state := .off } (s.changeMode .bypass) = true) ∧
    (let s := starting [] (cabin .governing { state := .on, level := some 40 })
     (s.changeMode .storage).control.quiet = some 60000 ∧
       (s.changeMode .storage).ladder.stack = [{ load := 3, cause := .storage, prior := some 40 }] ∧
       (s.changeMode .governing).ladder.stack = [] ∧
       (lastHigh s |>.changeMode .governing).ladder.stack = [{ load := 3, cause := .lastGasp, prior := some 40 }]) :=
  ⟨⟨⟨by decide +kernel, lawful_of (by decide +kernel)⟩, by decide +kernel⟩, by decide +kernel⟩

theorem witness_MeterFrameIsTakenOrOnlyCrosses :
    (desk.Hears 61 0 5 ∧ desk.Hears 9 0 16) ∧
    ((61 : Byte).toNat = desk.mgmt.settings.monitorNode ∧ desk.beforeLoadEnds = false) ∧
    meterOfBody [0xFF, 0x9C, 200, 5, 0xD8] = some
      { current := -100, soc := 200, solar := true, alternator := false, shore := true, temperature := some (-40) } ∧
    meterOfBody [0, 0, 201, 0] = none ∧ State.reset.beforeLoadEnds = true ∧
    nextIs (exec (.meterArrival 61 0 [0xFF, 0x9C, 200, 5, 0xD8]) desk) (fun t => t.ports.panelFifo.length = 1 &&
      t.meter = { current := some (-100), soc := some 200, temperature := some (-40), solar := true, alternator := false,
                  shore := true, staleTimer := some 5000, stale := false, charge := true }) = true ∧
    nextIs (exec (.meterArrival 61 0 [0, 0, 201, 0]) desk)
      (fun t => t.ports.panelFifo.length = 1 && t.meter = desk.meter) = true ∧
    nextIs (exec (.meterArrival 61 0 [0, 1, 200, 0, 20]) (crowded desk)) (fun t => t.ports.panelFifo = (crowded desk).ports.panelFifo &&
      t.meter.current = some 1 && t.attention[Cause.relayOverflow.index].pending) = true ∧
    nextIs (exec (.meterArrival 9 0 [0, 1, 200, 0, 20]) (crowded desk)) (fun t =>
      alike t <| ((crowded desk).heard .load 9).raise .relayOverflow) = true :=
  ⟨⟨hears_of (by decide +kernel), hears_of (by decide +kernel)⟩, by decide +kernel⟩

/-- The meter is fresh: a frame that sets no source flag changes no signal. -/
def metered (s : State) : State := { s with meter := { s.meter with stale := false, staleTimer := some 90 } }

/-- Overrun judgements of frames that change no signal, over and not over the ceiling, and beside a BUDGET entry. -/
theorem witness_MeterFramesAreJudged :
    nextIs (exec (.meterArrival 61 0 [0xE8, 0x8F, 200, 0, 20]) (metered desk)) (fun t =>
      t.word = (metered desk).word && t.meter.current = some (-6001) && t.ladder.overrun = some 10000) = true ∧
    nextIs (exec (.meterArrival 61 0 [0xE8, 0x90, 200, 0, 20]) (metered { desk with ladder := { desk.ladder with overrun := some 4 } }))
      (fun t => t.word = (metered desk).word && t.ladder.overrun = none) = true ∧
    nextIs (exec (.meterArrival 61 0 [0, 1, 200, 0, 20]) (metered (stacked (cabin .governing { state := .shed, level := some 40, prior := some 40 }) .budget)))
      (fun t => t.ladder.seq = .restoring 3) = true := by
  decide +kernel

/-- A frame that makes CHARGE high enters a stage that asks for it. -/
theorem witness_MeterFrameIsEvaluated :
    let charged : Stage := { stage1 with entry := { any := false, terms := Pattern.blank.terms.set 9 .high } }
    let s := metered { desk with ladder := { desk.ladder with live := ladderOf charged Stage.default } }
    s.control.doze = false ∧ nextIs (exec (.meterArrival 61 0 [0, 1, 200, 4, 20]) s) (fun t =>
      t.word ≠ s.word && t.ladder.active = 1 && t.attention[Cause.stageChange.index].pending) = true := by
  decide +kernel

/-! ### The Sense Unit -/

/-- The converter works for a scan round, or for a request of node 8. -/
def converting (forRequest : Bool) (round : Option (List SenseInput)) (s : State) : State :=
  { s with sense := { s.sense with
      converting := some { input := .supply, forRequest := forRequest }
      round := round, scanTimer := some 40
      slot := if forRequest then some { requester := 8, input := .supply, begun := true } else none } }

theorem witness_SenseRequestTakesTheSlot :
    (desk.Takes 5 2 ∧ State.reset.Takes 5 2 ∧ (converting true none desk).Takes 5 2) ∧
    (inputOfByte 1 = some .leisure ∧ inputOfByte 4 = some .supply) ∧ State.reset.control.phase = some .settle ∧
    nextIs (exec (.sense 5 1) State.reset) (fun t => t.ports.replies.map (·.body) = [[20, 9]]) = true ∧
    nextIs (exec (.sense 5 4) desk) (fun t => t.ports.replies = [] &&
      t.sense.slot = some { requester := 5, input := .supply, begun := true } &&
      t.sense.converting = some { input := .supply, forRequest := true }) = true ∧
    nextIs (exec (.sense 5 1) (converting false (some []) desk)) (fun t => t.ports.replies = [] &&
      t.sense.slot = some { requester := 5, input := .leisure, begun := false }) = true ∧
    nextIs (exec (.sense 5 1) (converting true none desk)) (fun t =>
      t.ports.replies.map (fun f => (f.dst, f.body)) = [(8, [20, 10])] &&
      t.sense.slot = some { requester := 5, input := .leisure, begun := false }) = true :=
  ⟨⟨takes_of (by decide +kernel), takes_of (by decide +kernel), takes_of (by decide +kernel)⟩, by decide +kernel⟩

/-- A SENSE frame that ends doze waits behind LEISURE of the round that begins (log entry 48). -/
theorem test_sense_that_ends_doze :
    nextIs (exec (.sense 5 3) (managed (dozing none))) (fun t => !t.control.doze &&
      t.sense.converting = some { input := .leisure, forRequest := false } &&
      t.sense.slot = some { requester := 5, input := .aux, begun := false }) = true := by
  decide +kernel

/-- No conversion runs, and the next round is due in 40 ms. -/
def waiting (round : Option (List SenseInput)) (s : State) : State :=
  { s with sense := { s.sense with round := round, scanTimer := some 40 } }

theorem witness_ConversionsReplaceTheReading :
    ((waiting none desk).sense.scanTimer ≠ none ∧ (waiting none desk).sense.slot = none ∧
      (waiting none desk).sense.converting = none) ∧
    nextIs (exec .scanRoundStart (waiting none desk)) (fun t => t.sense.scanTimer = some 100 &&
      t.sense.round = some [.chassis, .aux, .supply]) = true ∧
    nextIs (exec .scanRoundStart (waiting (some [.aux]) desk)) (fun t => t.sense.roundOwed && t.sense.scanTimer = some 40) = true ∧
    nextIs (exec (.scanConversionEnd 1100) (converting false (some []) desk)) (fun t =>
      t.sense.supply = some 1100 && !t.sense.last && t.sense.round = none && t.sense.converting = none) = true ∧
    nextIs (exec (.scanConversionEnd 4001) (converting false (some [.aux]) desk)) (fun t =>
      t.sense.supply = some 4000 && t.sense.converting = some { input := .aux, forRequest := false }) = true ∧
    nextIs (exec (.requestConversionEnd 1250) (converting true none desk)) (fun t =>
      t.sense.supply = some 1250 && t.sense.slot = none &&
      t.ports.replies.map (fun f => (f.dst, f.body)) = [(8, [20, 0, 4, 4, 226])]) = true := by
  decide +kernel

/-- A request of node 8 for AUX waits in the slot. -/
def queued (s : State) : State :=
  { s with sense := { s.sense with slot := some { requester := 8, input := .aux, begun := false } } }

/-- The next round is owed. -/
def roundDue (s : State) : State := { s with sense := { s.sense with roundOwed := true } }

/-- A round that comes due during another, a request that waits behind a conversion, and a round whose next
one is owed. -/
theorem witness_ConversionsTakeTheNext :
    nextIs (exec .scanRoundStart (converting false (some [.aux]) desk)) (fun t =>
      alike t <| roundDue (converting false (some [.aux]) desk)) = true ∧
    nextIs (exec (.scanConversionEnd 1200) (queued (converting false (some [.aux]) desk))) (fun t =>
      t.sense.slot = some { requester := 8, input := .aux, begun := true } && t.sense.round = some [.aux] &&
      t.sense.converting = some { input := .aux, forRequest := true }) = true ∧
    nextIs (exec (.scanConversionEnd 1200) (queued (converting false (some []) desk))) (fun t =>
      t.sense.slot = some { requester := 8, input := .aux, begun := true } && t.sense.round = none &&
      t.sense.converting = some { input := .aux, forRequest := true }) = true ∧
    nextIs (exec (.scanConversionEnd 1200) (roundDue (converting false (some []) desk))) (fun t =>
      t.sense.round = some [.chassis, .aux, .supply] && !t.sense.roundOwed && t.sense.scanTimer = some 100 &&
      t.sense.converting = some { input := .leisure, forRequest := false }) = true := by
  decide +kernel

/-- Watch W1 looks at LEISURE, whose conversion is in flight, with no dwell. -/
def watching (forRequest : Bool) (s : State) : State :=
  { s with
    watches := s.watches.set 0 (Watch.fresh { lowVolts with dwell := 0 })
    sense := { s.sense with
      converting := some { input := .leisure, forRequest := forRequest }
      round := if forRequest then none else some [.chassis]
      slot := if forRequest then some { requester := 8, input := .leisure, begun := true } else none } }

/-- A reading that makes a watch high enters stage 1, for a scan and, before the answer, for a request; in doze it
ends doze and owes the next round. -/
theorem witness_ConversionsTakeTheChange :
    nextIs (exec (.scanConversionEnd 1199) (watching false (poised desk))) (fun t => t.ladder.active = 1 &&
      t.sense.converting = some { input := .chassis, forRequest := false } && t.sense.round = some []) = true ∧
    nextIs (exec (.requestConversionEnd 1199) (watching true (poised desk))) (fun t => t.ladder.active = 1 &&
      t.ports.replies.map (·.body) = [[0, 1], [20, 0, 1, 4, 175]]) = true ∧
    nextIs (exec (.scanConversionEnd 1199) (watching false (poised (dozing none)))) (fun t => t.ladder.active = 1 &&
      !t.control.doze && t.sense.roundOwed && t.sense.converting = some { input := .chassis, forRequest := false }) = true := by
  decide +kernel

/-! ### Modes, start-up and resets -/

/-- GOVERNING, managed, with load 3 SHED: the state `shedding` with a manager. -/
theorem witness_ModeRequestsAndWarmRestart :
    (modeOfByte 2 = some .bypass ∧ modeOfByte 1 = some .governing) ∧
    (shedding.TakesWrite 5 2 ∧ shedding.TakesWrite 5 1 ∧ State.reset.TakesWrite 5 2) ∧
    (shedding.Lawful ∧ shedding.mgmt.save = none ∧ shedding.control.mode = .governing ∧
      shedding.control.census = none ∧ State.reset.control.mode = .starting) ∧
    nextIs (exec (.setMode 5 2) State.reset) (fun t => t.ports.replies.map (·.body) = [[21, 4]]) = true ∧
    nextIs (exec (.setMode 5 1) shedding) (fun t => alike t <| (shedding.heard .panel 5).withReply 5 [21, 0]) = true ∧
    nextIs (exec (.setMode 5 2) shedding) (fun t => t.control.mode = .bypass && t.ladder.stack = [] && t.hold = [] &&
      t.ports.replies.map (·.body) = [[0, 5, 12, 16], [21, 0]] && record { state := .off } t) = true ∧
    nextIs (exec (.warmRestart 5) shedding) (fun t => t.control.mode = .governing && t.hold = [] &&
      t.control.lastReset = .warmRestart && t.control.census = some [3] && t.sense.slot = none &&
      t.ports.replies.map (·.body) = [[0, 5, 12, 17], [0, 1], [23, 0]]) = true :=
  ⟨by decide +kernel,
   ⟨⟨takes_of (by decide +kernel), .inl (by decide +kernel)⟩, ⟨takes_of (by decide +kernel), .inl (by decide +kernel)⟩,
    ⟨takes_of (by decide +kernel), .inl (by decide +kernel)⟩⟩,
   ⟨shedding_lawful, by decide +kernel⟩, by decide +kernel⟩

/-- A warm restart with a request held and a SENSE request waiting: the load that owes OFF goes on owing it, the
other owes QUERY, and the stage that holds on levels is entered. -/
theorem witness_WarmRestartRecomputesAndAsks :
    let s := queued (holding (alarmed (poised (managed (owing (some .off) none)))))
    (s.control.mode ≠ .starting ∧ s.control.census = none ∧ s.heldLoads.Nodup ∧ s.mgmt.save = none) ∧
    nextIs (exec (.warmRestart 5) s) (fun t => t.control.census = some [3, 4] && t.hold = [] && t.sense.slot = none &&
      t.ladder.active = 1 && t.ladder.stack.length = 2 && (t.live? 3).any (·.run.owed = some .off) &&
      t.ports.replies.map (fun f => (f.dst, f.body)) = [(30, [0, 5, 12, 17]), (8, [20, 11]), (0, [0, 1]), (5, [23, 0])]) = true ∧
    (s.beginCensus.live? 4).any (·.run.owed = some .query) = true := by
  decide +kernel

/-- SET MODE with this code gives these REPLY bodies, and what passes. -/
def modeChange (code : Byte) (s : State) (replies : List (List Byte)) (p : State → Bool) : Bool :=
  nextIs (exec (.setMode 5 code) s) fun t => t.ports.replies.map (·.body) = replies && p t

/-- A load that is ON in BYPASS, or in GOVERNING with no stage; a held request; an entry with cause STORAGE;
and a WINDING load with a held request. -/
theorem witness_ModeChangesTakeTheirEffects :
    ((staged (cabin .bypass { state := .on, level := some 40 })).TakesWrite 5 2 ∧
      (staged (cabin .bypass { state := .on, level := some 40 })).Lawful ∧
      (cabin .governing { state := .on }).Lawful ∧ (holding (cabin .governing { state := .off })).Lawful ∧
      (staggering (stacked (cabin .storage { state := .shed, prior := some 40 }) .storage)).Lawful ∧
      (holding (stacked (cabin .governing { state := .winding, prior := some 40 }))).Lawful) ∧
    ((staged (cabin .bypass { state := .on })).mgmt.save = none ∧
      (staged (cabin .bypass { state := .on })).control.census = none ∧
      (staged (cabin .bypass { state := .on })).sense.last = false ∧
      (staged (cabin .bypass { state := .on })).hold = []) ∧
    modeChange 1 (staged (cabin .bypass { state := .on, level := some 40 })) [[64, 0], [21, 0]] (fun t =>
      t.control.mode = .governing && t.ladder.stack = [{ load := 3, cause := .stage 1, prior := some 40 }]) = true ∧
    modeChange 3 (cabin .governing { state := .on, level := some 40 }) [[64, 0], [21, 0]] (fun t =>
      t.control.quiet = some 60000 && t.ladder.stack = [{ load := 3, cause := .storage, prior := some 40 }]) = true ∧
    modeChange 3 (holding (cabin .governing { state := .off })) [[0, 5, 12, 15], [21, 0]] (fun t =>
      t.hold = [] && t.control.quiet = some 60000) = true ∧
    modeChange 1 (staggering (stacked (cabin .storage { state := .shed, prior := some 40, lockout := some 9 }) .storage)) [[21, 0]]
      (fun t => t.ladder.stack = [] && t.control.quiet.isNone && record { state := .lockout, lockout := some 9 } t) = true ∧
    modeChange 2 (holding (stacked (cabin .governing { state := .winding, prior := some 40, grace := some 8 })))
      [[0, 5, 12, 16], [21, 0]] (fun t => t.ladder.stack = [] && t.hold = [] && t.ladder.seq = .idle &&
        record { state := .off, owed := some .off } t) = true :=
  ⟨⟨⟨takes_of (by decide +kernel), .inl (by decide +kernel)⟩, lawful_of (by decide +kernel),
    lawful_of (by decide +kernel), lawful_of (by decide +kernel), lawful_of (by decide +kernel),
    lawful_of (by decide +kernel)⟩, by decide +kernel⟩

/-- Leaving STORAGE with the sequencer IDLE: load 3 leaves the stack, and the entry below it is restored. -/
theorem witness_LeavingStorageScans :
    (let s := (crampedBy (cabin .storage { state := .winding, prior := some 40 })).push { load := 3, cause := .storage, prior := some 40 }
     s.control.mode = .storage ∧ s.ladder.seq = .idle ∧
       modeChange 1 s [[21, 0]] (fun t => restores4 t && t.ladder.stack = [] &&
         record { state := .off, owed := some .off } t) = true) ∧
    (let s := stacked (cabin .governing { state := .shed, prior := some 40 } { lamp with target := .direct 2 }) .storage
     s.loads.outputs[(2 : Fin 4)] = false ∧ (s.releaseEntry 3).ladder.stack = [] ∧
       (s.releaseEntry 3).ports.replies.map (·.body) = [[10, 2, 0, 3, 0]]) ∧
    (let s := cabin .governing { state := .on }
     s.releaseEntry 3 = s) := by
  decide +kernel

/-- Entries to GOVERNING and STORAGE while LAST is high: every GOVERNED load of tier 1 or above is shed, and
LAST_GASP raised, after the sweep. -/
theorem witness_ModeEntriesWithLastHigh :
    ((lastHigh (cabin .bypass { state := .on, level := some 40 })).TakesWrite 5 2 ∧
      (lastHigh (cabin .bypass { state := .on, level := some 40 })).Lawful ∧
      (lastHigh (cabin .governing { state := .on })).Lawful ∧ (lastHigh (cabin .storage { state := .off })).Lawful) ∧
    modeChange 1 (lastHigh (cabin .bypass { state := .on, level := some 40 })) [[0, 2], [21, 0]] (fun t =>
      t.control.mode = .governing && t.attention[Cause.lastGasp.index].pending &&
      t.ladder.stack = [{ load := 3, cause := .lastGasp, prior := some 40 }]) = true ∧
    modeChange 3 (lastHigh (cabin .governing { state := .on, level := some 40 })) [[64, 0], [21, 0]] (fun t =>
      t.attention[Cause.lastGasp.index].pending && t.attention[Cause.enforced.index].pending &&
      t.ladder.stack = [{ load := 3, cause := .storage, prior := some 40 }]) = true ∧
    modeChange 1 (lastHigh (staggering (stacked ((cabin .storage { state := .shed }).setSlot 4
        { live := some { config := pump, run := { state := .on, level := some 7 } } }) .storage))) [[0, 2], [21, 0]] (fun t =>
      t.control.mode = .governing && t.attention[Cause.lastGasp.index].pending && record { state := .off } t &&
      t.ladder.stack = [{ load := 4, cause := .lastGasp, prior := some 7 }]) = true :=
  ⟨⟨⟨takes_of (by decide +kernel), .inl (by decide +kernel)⟩, lawful_of (by decide +kernel),
    lawful_of (by decide +kernel), lawful_of (by decide +kernel)⟩, by decide +kernel⟩

/-- An entry to STORAGE that sheds load 4, withdraws the request held for load 3 and starts the quiet timer; and
entries taken out of the stack at an entry to BYPASS. -/
theorem witness_StorageEntrySweepsAndWithdraws :
    (let s := (holding (cabin .governing { state := .lockout, lockout := some 9 })).setSlot 4
       { live := some { config := { pump with draw := 0 }, run := { state := .on, level := some 7 } } }
     s.Lawful ∧ modeChange 3 s [[0, 5, 12, 15], [64, 0], [21, 0]] (fun t =>
       t.hold = [] && t.control.quiet = some 60000 && t.attention[Cause.enforced.index].pending &&
       t.ladder.stack = [{ load := 4, cause := .storage, prior := some 7 }]) = true) ∧
    (let s := stacked { cabin .governing { state := .winding } with control := (running .bypass).control }
     (s.releaseEntry 3).ladder.stack = [] ∧ record { state := .off, owed := some .off } (s.releaseEntry 3) = true) :=
  ⟨⟨lawful_of (by decide +kernel), by decide +kernel⟩, by decide +kernel⟩

/-- The LOAD phase, with what the store holds. -/
def loading (c : Option StoreContent) : State :=
  { State.reset with
    control := { State.reset.control with phase := some .load, settle := none }
    mgmt := { State.reset.mgmt with store := c } }

theorem default_ladder_lawful : Ladder.default.Lawful := ⟨by decide +kernel, by decide +kernel⟩

theorem default_settings_lawful : Settings.default.Lawful := by constructor <;> decide +kernel

/-- The laws of a state with nothing in its tables but what the store holds. -/
theorem loading_lawful (c : Option StoreContent) (h : ∀ k, c = some k → k.Lawful) : (loading c).Lawful where
  bounded := ⟨Nat.zero_le _, Nat.zero_le _, Nat.zero_le _, Nat.zero_le _⟩
  flags := by
    show ∀ i : Fin 15, (State.reset.attention[i]).inService = true → (State.reset.attention[i]).pending = true
    decide +kernel
  tables :=
    { ladder := default_ladder_lawful
      settings := default_settings_lawful
      saved := fun op h => by cases h
      stored := h }
  phase := ⟨fun _ => rfl, fun _ => rfl⟩
  stack :=
    { once := by show ([] : List LoadNo).Nodup; decide
      exact := by
        show ∀ n, n ∈ ([] : List LoadNo) ↔ State.reset.state? n = some .shed ∨ State.reset.state? n = some .winding
        decide +kernel
      governed := fun n l hn _ => absurd hn (by simp [State.stackLoads, loading, State.reset, LadderController.reset])
      bypass := fun _ => rfl }
  restore := by
    show ∀ n, State.reset.state? n = some .restoring → State.reset.ladder.seq = .restoring n
    decide +kernel
  queue :=
    { once := by show ([] : List LoadNo).Nodup; decide
      waiting := fun n hn => absurd hn (by simp [State.heldLoads, loading, State.reset])
      starting := fun _ => rfl }

/-- What a save of `shedding` takes. -/
theorem shedding_content_lawful : shedding.content.Lawful :=
  ⟨shedding_lawful.tables.ladder, shedding_lawful.tables.settings⟩

theorem witness_StartUpInstallsTheTables :
    (State.reset.control.phase = some .settle ∧ State.reset.control.settle ≠ none ∧
      State.reset.ladder.live = .default ∧ State.reset.ladder.active = 0 ∧ State.reset.sense.slot = none ∧
      State.reset.sense.converting = none) ∧
    ((loading none).Lawful ∧ (loading none).control.phase = some .load ∧ (loading none).mgmt.store = none) ∧
    ((loading (some shedding.content)).Lawful ∧ (loading (some shedding.content)).mgmt.store = some shedding.content) ∧
    ((running .storage).startQuiet.control.quiet = some 60000) ∧
    nextIs (exec .settleEnd State.reset) (fun t => t.control.phase = some .load &&
      t.sense.round = some [.chassis, .aux, .supply]) = true ∧
    nextIs (exec (.loadComplete true) (loading none)) (fun t => t.control.mode = .bypass && t.control.phase = none &&
      t.attention[Cause.tableLost.index].pending) = true ∧
    nextIs (exec (.loadComplete true) (loading (some shedding.content))) (fun t => t.control.phase = some .census &&
      t.control.census = some [3] && record { state := .unknown, owed := some .query } t && t.loads.map[10] = some 3) = true ∧
    nextIs (exec .quietTimerExpiry (running .storage).startQuiet) (fun t => t.control.doze && t.control.quiet = none) = true :=
  ⟨by decide +kernel, ⟨loading_lawful _ (fun _ h => by cases h), rfl, rfl⟩,
   ⟨loading_lawful _ (fun _ h => by cases h; exact shedding_content_lawful), rfl⟩, by decide +kernel⟩

/-- Held in reset by the supply, by the line, or by both. -/
def heldBy (supply line : Bool) : State := (running .governing).holdBy supply line

theorem witness_ResetsHoldThePartAndStartIt :
    ((heldBy false true).control.lineHold = true ∧ (heldBy false true).control.supplyHold = false ∧
      (heldBy true true).control.supplyHold = true ∧ (heldBy true false).control.lineHold = false) ∧
    nextIs (exec .brownOut (heldBy false true)) (fun t => t.control.lastReset = .powerOn && t.control.supplyHold &&
      t.control.lineHold && t.control.phase = some .settle && t.control.settle = none) = true ∧
    nextIs (exec .resetLineRelease (heldBy false true)) (fun t => t.control.settle = some 500) = true ∧
    nextIs (exec .supplyRecovery (heldBy true true)) (fun t => t.control.settle = none && t.inResetHold) = true := by
  decide +kernel

/-! ### The transmitters -/

/-- The frame in flight on the load line. -/
def sends (dst : Byte) (body : List Byte) (t : State) : Bool :=
  t.ports.loadTx = some { kind := .switch, src := 62, dst := dst, body := body }

theorem witness_LoadLineSendsByClass :
    ((owing (some .off) (some .off)).ports.loadTx = none ∧ (owing (some .off) (some .off)).control.census = none) ∧
    nextIs (exec .loadTxStart (owing (some .off) (some .off))) (fun t => sends 20 [4, 3] t &&
      record { state := .on, level := some 40, owed := some .off } t) = true ∧
    nextIs (exec .loadTxStart (owing (some (.on (some 70) 1)) (some (.on none 2)))) (fun t => sends 20 [3, 2, 40] t &&
      record { state := .on, level := some 40 } t) = true ∧
    nextIs (exec .loadTxStart (cabin .governing { state := .restoring, owed := some (.on (some 40) 0) })) (fun t =>
      sends 20 [3, 2, 40] t && record { state := .restoring, answer := some 1000 } t) = true ∧
    nextIs (exec .loadTxStart (owing (some (.on (some 70) 2)) (some (.on none 1)))) (sends 20 [4, 1]) = true ∧
    nextIs (exec .loadTxStart (owing (some .query) (some .query))) (fun t => sends 20 [3, 5] t &&
      record { state := .on, level := some 40, answer := some 1000 } t) = true ∧
    nextIs (exec .loadTxStart (cabin .governing { state := .winding, owed := some .wind } { lamp with method := .wind 600 .keep }))
      (fun t => sends 20 [3, 4] t && record { state := .winding, grace := some 600000 } t) = true ∧
    nextIs (exec .loadTxStart (cabin .governing { state := .shed, owed := some .wind } { lamp with method := .wind 600 .keep }))
      (fun t => sends 20 [3, 4] t && record { state := .shed } t) = true ∧
    nextIs (exec .loadTxStart (crowded (owing none none))) (fun t => t.ports.loadFifo.length = 15 && t.ports.loadTx.isSome) = true := by
  decide +kernel

/-- In the first class load 4 comes before load 3: the shed order takes the higher number first. -/
theorem witness_LoadLineFirstClass :
    shedBefore { pump with dimmable := false } 4 lamp 3 = true ∧
    ((owing (some .off) (some .off)).live? 4).bind (·.run.owed) = some .off := by
  decide +kernel

/-- A command that starts no answer timer takes its load out of a census; one that starts one does not. -/
theorem witness_LoadLineInACensus :
    nextIs (exec .loadTxStart (surveying [3] (cabin .governing { state := .on, owed := some .off })))
      (fun t => sends 20 [3, 3] t && t.control.census = none) = true ∧
    nextIs (exec .loadTxStart (surveying [3, 7] (cabin .governing { state := .shed, owed := some .wind })))
      (fun t => sends 20 [3, 4] t && t.control.census = some [7]) = true ∧
    nextIs (exec .loadTxStart (surveying [3] (cabin .governing { state := .restoring, owed := some (.on none 0) })))
      (fun t => t.control.census = some [3]) = true ∧
    nextIs (exec .loadTxStart (surveying [3] (cabin .governing { state := .on, owed := some .query })))
      (fun t => sends 20 [3, 5] t && t.control.census = some [3]) = true := by
  decide +kernel

theorem witness_PanelLineSendsRepliesFirst :
    ((jammed desk).ports.panelTx = none ∧ (jammed desk).ports.replies.length = 8) ∧
    ((crowded desk).ports.replies = [] ∧ (crowded desk).ports.panelFifo.length = 16) ∧
    nextIs (exec .panelTxStart (crowded (jammed desk)))
      (fun t => t.ports.replies.length = 7 && t.ports.panelFifo.length = 16) = true ∧
    nextIs (exec .panelTxStart (crowded desk)) (fun t => t.ports.panelTx.isSome && t.ports.panelFifo.length = 15) = true := by
  decide +kernel

/-! ### Timers -/

theorem witness_LoadTimersExpire :
    ((cabin .governing { state := .lockout, lockout := some 0 }).live? 3).isSome = true ∧
    nextIs (exec (.minOnExpiry 3) (cabin .governing { state := .on, minOn := some 0 })) (record { state := .on }) = true ∧
    nextIs (exec (.lockoutExpiry 3) (cabin .governing { state := .lockout, lockout := some 0 })) (record { state := .off }) = true ∧
    nextIs (exec (.answerExpiry 3) (cabin .governing { state := .unknown, owed := some .off, answer := some 0 }))
      (fun t => record { state := .absent } t && t.attention[Cause.noAnswer.index].pending) = true ∧
    nextIs (exec (.answerExpiry 3) ((cabin .governing { state := .restoring, withdrawn := true, answer := some 0 }).setSeq (.restoring 3)))
      (fun t => record { state := .off } t && t.ladder.seq = .stagger 3000 && !t.attention[Cause.noAnswer.index].pending) = true ∧
    nextIs (exec (.graceExpiryKeep 3) (cabin .governing { state := .winding, grace := some 0 } { lamp with method := .wind 1 .keep }))
      (fun t => record { state := .winding, overdue := true } t && t.attention[Cause.windTimeout.index].pending) = true ∧
    nextIs (exec (.graceExpiryCut 3) (cabin .governing { state := .winding, grace := some 0 } { lamp with method := .wind 1 .cut }))
      (fun t => record { state := .shed, lockout := some 7000, owed := some .off } t &&
        t.attention[Cause.windTimeout.index].pending) = true := by
  decide +kernel

/-- The answer timer of a load in each state but UNKNOWN, and a lockout that ends under SHED. -/
theorem witness_AnswerTimersExpire :
    (([.on, .off, .lockout] : List LoadState).all fun state =>
      nextIs (exec (.answerExpiry 3) (cabin .governing { state := state, owed := some (.on none 0), answer := some 0, minOn := some 9 }))
        (fun t => record { state := .absent } t && t.attention[Cause.noAnswer.index].pending)) = true ∧
    (([.shed, .winding] : List LoadState).all fun state =>
      nextIs (exec (.answerExpiry 3) (staggering (stacked (cabin .governing { state := state, grace := some 9, answer := some 0 }))))
        (fun t => record { state := .absent } t && t.ladder.stack = [])) = true ∧
    nextIs (exec (.answerExpiry 3) ((cabin .governing { state := .restoring, level := some 4, answer := some 0 }).setSeq (.restoring 3)))
      (fun t => record { state := .absent } t && t.ladder.seq = .stagger 3000 && t.attention[Cause.noAnswer.index].pending) = true ∧
    nextIs (exec (.lockoutExpiry 3) (staggering (stacked (cabin .governing { state := .shed, lockout := some 0 }))))
      (fun t => record { state := .shed } t && t.ladder.stack.length = 1) = true := by
  decide +kernel

/-- The lockout of a direct load, with its report; a grace cut of a load with restore option NONE, or after an
absorbed OFF; and answer timers in a census. -/
theorem witness_TimersOfDirectCutAndAskedLoads :
    nextIs (exec (.lockoutExpiry 3) (cabin .governing { state := .lockout, lockout := some 0 } { lamp with target := .direct 1 }))
      (fun t => record { state := .off } t && t.ports.replies.map (·.body) = [[10, 2, 0, 3, 0]]) = true ∧
    nextIs (exec (.lockoutExpiry 3) (staggering (stacked (cabin .governing { state := .shed, lockout := some 0 } { lamp with target := .direct 1 }))))
      (fun t => record { state := .shed } t && t.ports.replies = []) = true ∧
    (let wound (restoreAuto userOff : Bool) : State := staggering (stacked (cabin .governing
       { state := .winding, grace := some 0, prior := some 40, userOff := userOff }
       { lamp with method := .wind 1 .cut, restoreAuto := restoreAuto }))
     let outOfIt (t : State) : Bool := t.ladder.stack = [] &&
       record { state := .lockout, lockout := some 7000, owed := some .off } t &&
       t.attention[Cause.windTimeout.index].pending
     nextIs (exec (.graceExpiryCut 3) (wound false false)) outOfIt = true ∧
       nextIs (exec (.graceExpiryCut 3) (wound true true)) outOfIt = true) ∧
    nextIs (exec (.answerExpiry 3) (surveying [3] (cabin .governing { state := .on, answer := some 0 })))
      (fun t => record { state := .absent } t && t.control.census = none) = true ∧
    nextIs (exec (.answerExpiry 3) (starting [3] (cabin .governing { state := .unknown, answer := some 0 })))
      (fun t => record { state := .absent } t && t.control.mode = .bypass) = true := by
  decide +kernel

/-- An expiry that ends a counted load's draw frees what kept load 4 off; a lockout that runs out is a scan event for
a stacked load and a replay event for a held request. -/
theorem witness_LoadTimersReportTheFall :
    nextIs (exec (.answerExpiry 3) (crampedBy (cabin .governing { state := .on, answer := some 0 }))) restores4 = true ∧
    nextIs (exec (.graceExpiryCut 3) (crampedBy (cabin .governing { state := .winding, grace := some 0 } { lamp with method := .wind 1 .cut })))
      (fun t => restores4 t && record { state := .shed, lockout := some 7000, owed := some .off } t) = true ∧
    nextIs (exec (.lockoutExpiry 3) (stacked (cabin .governing { state := .shed, lockout := some 0 })))
      (fun t => t.ladder.seq = .restoring 3) = true ∧
    nextIs (exec (.lockoutExpiry 3) (holding (cabin .governing { state := .lockout, lockout := some 0 })))
      (fun t => t.hold = [] && record { state := .on, level := some 60, minOn := some 5000, owed := some (.on (some 60) 0) } t) = true ∧
    nextIs (exec (.lockoutExpiry 3) (holding (cabin .governing { state := .lockout, lockout := some 0 } { lamp with target := .direct 1 })))
      (fun t => t.hold = [] && (t.ports.replies.map (·.body)).head? = some [10, 2, 0, 3, 1]) = true ∧
    nextIs (exec (.answerExpiry 3) (cabin .governing { state := .absent, answer := some 0 })) (record { state := .absent }) = true := by
  decide +kernel

/-- Watch W1 low with its dwell running, the meter's staleness timer running, OVER high. -/
def ticking (s : State) : State :=
  { s with
    watches := s.watches.set 0 { defn := lowVolts, output := false, dwell := some 0 }
    meter := { s.meter with stale := false, staleTimer := some 0 }
    ladder := { s.ladder with exitDwell := some 0, overrun := some 0, overHigh := true } }

theorem witness_LadderTimersExpire :
    ((ticking desk).meter.staleTimer ≠ none ∧ (ticking desk).watches[0].dwell ≠ none ∧
      (ticking desk).ladder.exitDwell ≠ none ∧ (ticking desk).candidate .none = 0 ∧
      (ticking desk).ladder.overrun ≠ none ∧ (ticking desk).ladder.overHigh = true) ∧
    ((ticking desk).budgetVictims = [] ∧ (ticking (cabin .governing { state := .on })).budgetVictims = [3]) ∧
    ((staggering desk).hold = [] ∧ (staggering desk).nextRestore = none) ∧
    ((holding desk).heldFor 3).isSome = true ∧
    nextIs (exec .stalenessExpiry (ticking desk)) (fun t => t.meter.stale && t.attention[Cause.meterStale.index].pending) = true ∧
    nextIs (exec (.watchDwellExpiry 0) (ticking desk)) (fun t => t.watches[0].output && t.word.getLsbD 0) = true ∧
    nextIs (exec .exitDwellExpiry { staged desk with ladder := { (staged desk).ladder with exitDwell := some 0 } })
      (fun t => t.ladder.active = 0 && t.attention[Cause.stageChange.index].pending) = true ∧
    nextIs (exec .overrunExpiry (ticking desk)) (fun t => t.ladder.overrun = some 10000 &&
      t.attention[Cause.budgetStuck.index].pending) = true ∧
    nextIs (exec .overrunExpiry (ticking (cabin .governing { state := .on }))) (fun t =>
      t.ladder.stack = [{ load := 3, cause := .budget, prior := none }] &&
      record { state := .shed, owed := some .off, lockout := some 7000 } t) = true ∧
    nextIs (exec .staggerExpiry (staggering desk)) (fun t => t.ladder.seq = .idle) = true ∧
    nextIs (exec (.holdLifetimeExpiry 3) (holding desk)) (fun t => t.hold = [] &&
      t.ports.replies.map (·.body) = [[0, 5, 12, 11], [2, 0]]) = true := by
  decide +kernel

/-- The rise of STALE and a watch's dwell enter the stage that asks for them. -/
theorem witness_ExpiriesTakeTheChange :
    let stale : Stage := { stage1 with entry := { any := false, terms := Pattern.blank.terms.set 8 .rise } }
    let ticks (one : Stage) : State :=
      { ticking desk with ladder := { desk.ladder with live := ladderOf one Stage.default } }
    nextIs (exec .stalenessExpiry (ticks stale)) (fun t => t.ladder.active = 1 && t.meter.stale) = true ∧
    nextIs (exec (.watchDwellExpiry 0) (ticks stage1)) (fun t => t.ladder.active = 1 && t.watches[0].output) = true := by
  decide +kernel

/-- The overrun dwell runs out with OVER low, and a meter that reads 1 A over the ceiling. -/
def overrunning (s : State) : State :=
  { s with
    ladder := { s.ladder with overrun := some 0, overHigh := false }
    meter := { s.meter with current := some (-6010), stale := false, staleTimer := some 90 } }

/-- The rise of OVER and its budget shed, the overrun judgement, and the restore a stagger expiry finds. -/
theorem witness_OverRisesAndStaggerRestores :
    (overrunning desk).control.doze = false ∧
    nextIs (exec .overrunExpiry (overrunning desk)) (fun t => t.signal 10 && t.ladder.overrun = some 10000 &&
      t.attention[Cause.budgetStuck.index].pending) = true ∧
    nextIs (exec .overrunExpiry (overrunning (cabin .governing { state := .on, level := some 40 }))) (fun t =>
      t.ladder.overHigh && t.ladder.stack = [{ load := 3, cause := .budget, prior := some 40 }]) = true ∧
    ((overrunning desk).judgeOverrun.ladder.overrun = some 0 ∧
      { overrunning desk with ladder := { (overrunning desk).ladder with overrun := none } }.judgeOverrun.ladder.overrun
        = some 10000 ∧
      { overrunning desk with meter := { (overrunning desk).meter with current := some (-6000) } }.judgeOverrun.ladder.overrun
        = none) ∧
    nextIs (exec .staggerExpiry (staggering (stacked (cabin .governing { state := .shed, level := some 70, prior := some 40, answer := some 9 }))))
      (fun t => t.ladder.seq = .restoring 3 && t.ladder.stack = [] && t.loads.decisions = 1 &&
        record { state := .restoring, level := some 40, owed := some (.on (some 40) 0) } t) = true := by
  decide +kernel

/-! ### Shedding, restoring, replay and evaluation -/

theorem witness_ShedAndLastGaspOfOneLoad :
    ((cabin .governing { state := .on, level := some 40 }).live? 3).isSome = true ∧
    (cabin .governing { state := .on, level := some 40 }).ladder.seq ≠ .restoring 3 ∧
    record { state := .shed, level := some 40, prior := some 40, owed := some .off, lockout := some 7000 }
      ((cabin .governing { state := .on, level := some 40 }).shedOne 3 .budget) = true ∧
    record { state := .lockout, owed := some .off, lockout := some 7000 }
      ((cabin .governing { state := .on, level := some 40 } { lamp with restoreAuto := false }).shedOne 3 .budget) = true ∧
    record { state := .winding, level := some 40, prior := some 40, owed := some .wind }
      ((cabin .governing { state := .on, level := some 40 } { lamp with method := .wind 1 .cut }).shedOne 3 .budget) = true ∧
    record { state := .shed, level := some 40, prior := some 40, owed := some .off, lockout := some 7000 }
      ((cabin .governing { state := .on, level := some 40 } { lamp with method := .wind 1 .cut }).gaspOne 3) = true := by
  decide +kernel

/-- A direct load shed and cut by a last gasp, and a WINDING load whose entry goes to the top. -/
theorem witness_DirectShedAndWindingGasp :
    (let s := cabin .governing { state := .on, level := some 40 } { lamp with target := .direct 2 }
     let s := { s with loads := { s.loads with outputs := s.loads.outputs.set 2 true } }
     let shed (r : Runtime) (stack : List StackEntry) (note : Byte) (t : State) : Bool :=
       record r t && t.ladder.stack = stack && !t.loads.outputs[2] &&
         t.ports.replies.map (·.body) = [[10, 2, 0, note, 0]]
     shed { state := .shed, level := some 40, prior := some 40, lockout := some 7000 }
         [{ load := 3, cause := .budget, prior := some 40 }] 7 (s.shedOne 3 .budget) = true ∧
       shed { state := .shed, level := some 40, prior := some 40, lockout := some 7000 }
         [{ load := 3, cause := .lastGasp, prior := some 40 }] 7 (s.gaspOne 3) = true) ∧
    (let s := (stacked (cabin .governing { state := .winding, prior := some 40, grace := some 9, userOff := true } { lamp with method := .wind 1 .keep }))
     let s := s.push { load := 9, cause := .budget, prior := none }
     record { state := .shed, prior := some 40, lockout := some 7000, owed := some .off } (s.gaspOne 3) = true ∧
       (s.gaspOne 3).ladder.stack = [{ load := 3, cause := .lastGasp, prior := some 40 },
         { load := 9, cause := .budget, prior := none }]) ∧
    (cabin .bypass { state := .on }).lastGasp.attention[Cause.lastGasp.index].pending = true ∧
    record { state := .on } (cabin .bypass { state := .on }).lastGasp = true ∧
    record { state := .shed, level := some 40, prior := some 40, owed := some .off }
      (cabin .governing { state := .on, level := some 40 } { lamp with minOff := 0, tier := 1 }).lastGasp = true := by
  decide +kernel

/-- A shed that ends a load's draw frees what kept load 4 off; one that begins a wind-down does not. -/
theorem witness_ShedReportsTheFall :
    restores4 ((crampedBy (cabin .governing { state := .on })).shed .budget 3) = true ∧
    restores4 ((crampedBy (cabin .governing { state := .on } { lamp with method := .wind 1 .cut })).shed .budget 3) = false := by
  decide +kernel

/-- A RESTORING load shed and cut by a last gasp, and one whose restore is withdrawn. -/
theorem witness_ShedOfARestoringLoad :
    (let s := (cabin .governing { state := .restoring, level := some 40, owed := some (.on (some 40) 2), answer := some 9 }).setSeq (.restoring 3)
     let cut (t : State) : Bool := t.ladder.seq = .stagger 3000 && t.ladder.stack.length = 1 &&
       record { state := .shed, level := some 40, prior := some 40, owed := some .off, lockout := some 7000 } t
     cut (s.shedOne 3 .budget) = true ∧ cut (s.gaspOne 3) = true) ∧
    (let s := (cabin .governing { state := .restoring, level := some 40, withdrawn := true, answer := some 9 }).setSeq (.restoring 3)
     let ended (t : State) : Bool := t.ladder.seq = .stagger 3000 && t.ladder.stack = [] &&
       record { state := .off, owed := some .off } t
     ended (s.shedOne 3 .budget) = true ∧ ended (s.gaspOne 3) = true) := by
  decide +kernel

/-- A scan event that would restore load 3 is left out, and the sequencer is IDLE again. -/
theorem test_unscanned :
    let s := stacked (cabin .governing { state := .shed, prior := some 40 })
    s.nextRestore.isSome = true ∧ s.unscanned State.scanEvent = s := by
  decide +kernel

/-- A rise of LAST leaves an ON load off in either order, where stage 0 would let it be restored at once. -/
theorem witness_TakeRiseLeavesTheLoadOff :
    let s := cabin .governing { state := .on, level := some 40 } { lamp with minOff := 0 }
    s.control.mode = .governing ∧
      record { state := .shed, level := some 40, prior := some 40, owed := some .off }
        (s.takeRise { rises := 1#12 <<< 11, falls := 0 }) = true :=
  ⟨rfl, Laws.takeRise_of_orders
    (p := fun t => record { state := .shed, level := some 40, prior := some 40, owed := some .off } t = true)
    (by decide +kernel) (by decide +kernel)⟩

/-- The decrease a rise of LAST makes is a scan event like any other: a load whose lockout runs stays SHED, and one
with none is restored. -/
theorem witness_LastRisesReportsTheFall :
    let s (minOff : Nat) := cabin .governing { state := .on, level := some 40 } { lamp with minOff := minOff }
    let rise : Change := { rises := 1#12 <<< 11, falls := 0 }
    record { state := .shed, level := some 40, prior := some 40, owed := some .off, lockout := some 7000 }
        ((s 7).lastRises rise) = true ∧
      ((s 0).lastRises rise).ladder.seq = .restoring 3 := by
  intro s rise
  have e (m : Nat) : (s m).lastRises rise =
      (((s m).takeRise rise).reportFalls (s m) State.drawFell).reportStage (s m) := if_pos (.inl rfl)
  rw [e, e]
  exact ⟨Laws.takeRise_of_orders (p := fun t => record _ ((t.reportFalls (s 7) State.drawFell).reportStage (s 7)) = true)
      (by decide +kernel) (by decide +kernel),
    Laws.takeRise_of_orders
      (p := fun t => ((t.reportFalls (s 0) State.drawFell).reportStage (s 0)).ladder.seq = .restoring 3)
      (by decide +kernel) (by decide +kernel)⟩

/-- A rise of LAST cuts load 4, and the decrease is a scan event and a replay event, in either order: the request
held for load 3, OFF and of tier 0 or 4, is granted. -/
theorem witness_LastRisesReplaysTheQueue :
    let s (tier : Nat) := (holding (cabin .governing { state := .off } { lamp with tier := tier })).setSlot 4
      { live := some { config := { lamp with target := .module 21 0 }, run := { state := .on, level := some 40 } } }
    let granted (t : State) : Bool := t.hold = [] &&
      record { state := .on, level := some 60, minOn := some 5000, owed := some (.on (some 60) 0) } t
    let told (s t : State) : Bool := t.fallen s = [4] && t.ladder.active = s.ladder.active && t.hold.length = 1 &&
      granted t.chosen.scanEvent.replayEvent && granted t.chosen.replayEvent.scanEvent
    told (s 0) ((s 0).takeRise { rises := 1#12 <<< 11, falls := 0 }) = true ∧
      told (s 4) ((s 4).takeRise { rises := 1#12 <<< 11, falls := 0 }) = true := by
  intro s granted told
  exact ⟨Laws.takeRise_of_orders (p := fun t => told (s 0) t = true) (by decide +kernel) (by decide +kernel),
    Laws.takeRise_of_orders (p := fun t => told (s 4) t = true) (by decide +kernel) (by decide +kernel)⟩

/-- Load 3 SHED with its lockout over, at stage 0, the sequencer IDLE. -/
def restorable : State := stacked (cabin .governing { state := .shed, level := some 40, prior := some 40 })

theorem witness_ScanRestoresTheFirstEligible :
    (restorable.ladder.seq = .idle ∧
      restorable.ladder.stack = [] ++ { load := 3, cause := .stage 1, prior := some 40 } :: [] ∧
      restorable.eligible { load := 3, cause := .stage 1, prior := some 40 } = true ∧ restorable.isHeld 3 = false) ∧
    (staggering restorable).ladder.seq ≠ .idle ∧
    (restorable.scanEvent.ladder.seq = .restoring 3 ∧ restorable.scanEvent.ladder.stack = [] ∧
      record { state := .restoring, level := some 40, owed := some (.on (some 40) 0) } restorable.scanEvent = true) ∧
    (let t := (stacked (cabin .governing { state := .shed, prior := some 40 } { lamp with target := .direct 1 })).scanEvent
     t.ladder.seq = .stagger 3000 ∧ t.ladder.stack = [] ∧ t.loads.outputs[1] = true ∧
       record { state := .on, level := some 40, minOn := some 5000 } t = true ∧
       t.ports.replies.map (·.body) = [[10, 1, 40, 5, 0]]) := by
  decide +kernel

/-- A restore grants the request held for its load. -/
theorem witness_ScanGrantsTheHeldRequest :
    ((holding restorable).heldFor 3).isSome = true ∧
    (let t := (holding restorable).scanEvent
     t.hold = [] ∧ t.ladder.seq = .restoring 3 ∧ t.loads.decisions = 2 ∧ t.ports.replies.map (·.body) = [[0, 4, 12, 0]] ∧
       record { state := .restoring, level := some 60, owed := some (.on (some 60) 1) } t = true) ∧
    (let t := (holding (stacked (cabin .governing { state := .shed, prior := some 40 } { lamp with target := .direct 1 }))).scanEvent
     t.hold = [] ∧ record { state := .on, level := some 60, minOn := some 5000 } t = true ∧
       t.ports.replies.map (·.body) = [[10, 1, 40, 5, 1], [0, 4, 12, 0], [10, 1, 60, 5, 0]]) := by
  decide +kernel

theorem witness_ReplayJudgesTheQueue :
    ((staggering shedding).ladder.seq ≠ .idle ∧ (holding desk).ladder.seq = .idle ∧ (holding desk).nextRestore = none) ∧
    ((holding desk).heldFor 3 = some { load := 3, requester := 30, channel := 12, wish := .level 60, lifetime := some 90000 } ∧
      (holding desk).control.mode ≠ .bypass ∧ (holding desk).ports.replies.length < 8) ∧
    ((holding (cabin .governing { state := .off } { lamp with authority := .forcedOff })).replay.ports.replies.map (·.body)
      = [[0, 5, 12, 2]]) ∧
    ((holding (cabin .governing { state := .absent })).replay.ports.replies.map (·.body) = [[0, 5, 12, 4]]) ∧
    ((holding (cabin .storage { state := .off })).replay.ports.replies.map (·.body) = [[0, 5, 12, 15]]) ∧
    ((holding (staged (cabin .governing { state := .off }))).replay.hold.length = 1) ∧
    record { state := .on, level := some 60, minOn := some 5000, owed := some (.on (some 60) 0) } (holding desk).replay = true ∧
    (let t := (holding (cabin .governing { state := .off } { lamp with authority := .pass })).replay
     t.hold = [] ∧ t.ports.replies.map (fun f => (f.dst, f.body)) = [(30, [0, 4, 12, 0])] ∧
       t.ports.loadFifo = [{ kind := .switch, src := 62, dst := 20, body := [3, 2, 60] }]) := by
  decide +kernel

/-- A replay grants a SHED load's request, and those of direct loads, GOVERNED and PASS. -/
theorem witness_ReplayGrants :
    (let s := holding (stacked (cabin .governing { state := .shed, level := some 40, prior := some 40 }) .storage)
     let t := s.replayEvent
     s.nextRestore = none ∧ t.hold = [] ∧ t.ladder.stack = [] ∧
       t.ports.replies.map (fun f => (f.dst, f.body)) = [(30, [0, 4, 12, 0])] ∧
       record { state := .on, level := some 60, minOn := some 5000, owed := some (.on (some 60) 0) } t = true) ∧
    (let t := (holding (cabin .governing { state := .off } { lamp with target := .direct 1 })).replay
     t.loads.outputs[1] = true ∧ t.ports.replies.map (·.body) = [[10, 1, 60, 5, 0], [0, 4, 12, 0]]) ∧
    (let t := (holding (cabin .governing { state := .lockout } { lamp with target := .direct 1, authority := .pass })).replay
     t.loads.outputs[1] = true ∧ t.ports.replies.map (·.body) = [[0, 4, 12, 0], [10, 1, 60, 5, 0]]) := by
  decide +kernel

theorem witness_EvaluationSelectsTheStage :
    ((alarmed (poised desk)).ladder.active < 1 ∧ (alarmed (poised desk)).ladder.live.enabled 1 = true ∧
      ((alarmed (poised desk)).ladder.live.entry 1).satisfied (alarmed (poised desk)).word .none = true) ∧
    ((staged desk).exitPattern.satisfied (staged desk).word .none = true ∧
      (staged desk).exitPattern.edgeHolds (staged desk).word .none = false ∧
      (alarmed (staged desk)).exitPattern.satisfied (alarmed (staged desk)).word .none = false) ∧
    (((alarmed (poised desk)).evaluate .none).ladder.active = 1 ∧
      ((staged desk).evaluate .none).ladder.exitDwell = some 0 ∧
      ((alarmed (staged desk)).evaluate .none).ladder.exitDwell = none) ∧
    ((alarmed (poised desk)).restage.ladder.active = 1 ∧ (staged desk).restage.ladder.active = 0) := by
  decide +kernel

/-- A fall of OVER at an empty stack leaves the stage whose exit waits for it; a change of C0 enters stage 1, and ends
doze first; a rise of LAST in BYPASS meets its clause. -/
theorem witness_ChangesAreTaken :
    (let relaxed : Stage := { stage1 with exit := { any := false, terms := Pattern.blank.terms.set 10 .fall } }
     let t : State := { staged desk with ladder := { (staged desk).ladder with live := ladderOf relaxed Stage.default } }
     let before : State := { t with ladder := { t.ladder with overHigh := true } }
     before.ladder.overHigh = true ∧ t.ladder.overHigh = false ∧ t.ladder.stack = [] ∧
       (t.takeOverFall before).ladder.active = 0 ∧ (stacked t).ladder.stack ≠ []) ∧
    ((alarmed (poised desk)).takeChange (poised desk)).ladder.active = 1 ∧
    (let t := (alarmed (poised (dozing none))).takeChange (poised (dozing none))
     (dozing none).control.mode = .storage ∧ t.ladder.active = 1 ∧ t.control.doze = false ∧
       t.control.quiet = some 60000 ∧ t.sense.converting = some { input := .leisure, forRequest := false }) ∧
    (let low (s : State) : State := { s with sense := { s.sense with last := true } }
     ((low (running .bypass)).word &&& ~~~(running .bypass).word).getLsbD 11 = true ∧
       ((low desk).word &&& ~~~desk.word).getLsbD 11 = true) := by
  decide +kernel

/-- Stages 1 and 2 enabled, stage 2 active, C0 high: stage 1 is the one to leave for. An escalation brings the
overrun judgement at the new ceiling, and the leave at an edge raises STAGE_CHANGE. -/
theorem witness_StageChangesAreJudged :
    (let s := alarmed desk
     let two : State := { s with ladder := { s.ladder with
       active := 2, live := ladderOf stage1 { stage1 with exit := { stage1.exit with terms := Pattern.blank.terms.set 0 .rise } } } }
     two.lowerStage = 1 ∧
       (two.evaluate { rises := 1, falls := 0 }).ladder.active = 1 ∧
       (two.evaluate { rises := 1, falls := 0 }).attention[Cause.stageChange.index].pending = true) ∧
    (let s := metered (alarmed (poised desk))
     let s : State := { s with meter := { s.meter with current := some (-101) } }
     (s.evaluate .none).ladder.active = 1 ∧ (s.evaluate .none).ladder.overrun = some 10000) ∧
    ((metered (alarmed (poised desk))).evaluate .none).ladder.overrun = none := by
  decide +kernel

/-- An ALL pattern of a level and an edge, an ANY pattern of the same, and a blank one. -/
theorem test_patterns :
    let all : Pattern := { any := false, terms := (Pattern.blank.terms.set 0 .high).set 11 .fall }
    let any : Pattern := { all with any := true }
    let fall : Change := { rises := 0, falls := 1#12 <<< 11 }
    (Pattern.blank.satisfied 0xFFF .none = false ∧ { Pattern.blank with any := true }.satisfied 0xFFF .none = false) ∧
    (all.satisfied 1 fall = true ∧ all.satisfied 1 .none = false ∧ all.satisfied 0 fall = false ∧ all.onLevels 1 = false) ∧
    (any.satisfied 1 .none = true ∧ any.satisfied 0 fall = true ∧ any.satisfied 0 .none = false ∧ any.onLevels 1 = true) ∧
    (any.edgeHolds 1 .none = false ∧ any.edgeHolds 0 fall = true) := by
  decide +kernel

/-- Shed order of two loads of one tier and draw, and of one with a higher draw. -/
theorem test_shedOrder :
    (owing none none).inShedOrder (fun _ => true) = [4, 3] ∧
    ((owing none none).setSlot 0 { live := some { config := { lamp with draw := 51 }, run := { state := .off } } }).inShedOrder
      (fun _ => true) = [0, 4, 3] := by
  decide +kernel

end Sys2Proof.Tests
end

namespace Sys2Proof.TableProofs

open Sys2Proof.Machine Sys2Proof.Laws

/-! ### Resets that hold the part -/

/-- The record of a reset is kept by one that begins while the part is already held (R162). -/
theorem beginHold_eq (s : State) (k : ResetKind) (supply line : Bool) :
    s.beginHold k supply line = { State.reset with
      mgmt := { State.reset.mgmt with store := s.mgmt.store }
      control := { State.reset.control with
        settle := none, storeValid := s.control.storeValid, supplyHold := supply, lineHold := line
        lastReset := if s.control.supplyHold || s.control.lineHold then s.control.lastReset else k }
      choices := s.choices
      pending := s.pending } := by
  unfold State.beginHold State.inResetHold
  split <;> rfl

/-- SETTLE begins once neither the supply nor the reset line holds the part (R54, R162). -/
theorem releaseIfFree_holdBy (s : State) (supply line : Bool) :
    (s.holdBy supply line).releaseIfFree = { s with control := { s.control with
      supplyHold := supply, lineHold := line
      settle := if supply || line then s.control.settle else some 500 } } := by
  cases supply <;> cases line <;> rfl

/-- Settles O51: each reset is `State.volatileLost` with its own causes of the hold, and each release asks
whether the other cause still holds the part. -/
theorem resetsHoldThePartAndStartIt : Obligations.ResetsHoldThePartAndStartIt := by
  unfold Obligations.ResetsHoldThePartAndStartIt
  intro s held c began
  refine ⟨rfl, congrArg _ (beginHold_eq ..), congrArg _ (beginHold_eq ..), ?_, ?_, ?_, ?_⟩
  all_goals
    intro here other
    simp [exec, execResetLineRelease, execSupplyRecovery, c, here, other, releaseIfFree_holdBy]

end Sys2Proof.TableProofs

namespace Sys2Proof.TableProofs

open Sys2Proof.Machine Sys2Proof.Laws

/-! ### A MANAGE request taken -/

section
variable {s : State} {src load : Byte} {n : LoadNo}

theorem loadOfByte_of (hn : load.toNat = n.val) : loadOfByte load = some n := by
  simp [loadOfByte, hn]

/-- What a frame that is heard leaves of a request's slot. -/
theorem slot_heard (n : LoadNo) : (s.heard .panel src).loads.slots[n] = s.loads.slots[n] := by
  rw [(hearing_heard s .panel src).loads]

theorem live?_heard (n : LoadNo) : (s.heard .panel src).live? n = s.live? n := (hearing_heard s .panel src).live n

variable {α : Type} {code : Byte} {length : Nat} {write : Bool} {a : α} {act : α → State → State × Option Answer}

/-- A request that is taken and refused answers its status, and changes nothing (R164). -/
theorem manage_refuses {status : Status} (k : s.Takes src length) (w : write = true → s.TakesWrite src length)
    (r : act a (s.heard .panel src) = (s.heard .panel src).refuse status) :
    s.manage src code length write (some a) act = (s.heard .panel src).withReply src [code, byte status.code] := by
  rw [manage_takes act k w, r]
  exact answerManage_room k.2

/-- A request that is taken and carried out answers OK, with its data, behind the frames that wait (R148). -/
theorem manage_does {t : State} {data : List Byte} (k : s.Takes src length)
    (w : write = true → s.TakesWrite src length) (r : act a (s.heard .panel src) = t.done data)
    (same : t.ports = (s.heard .panel src).ports) :
    s.manage src code length write (some a) act = t.withReply src (code :: 0 :: data) := by
  rw [manage_takes act k w, r]
  exact answerManage_room (by rw [same]; exact k.2)

theorem unlessSaving_busy (act : State → State × Option Answer) (h : s.mgmt.save ≠ none) :
    (s.heard .panel src).unlessSaving act = (s.heard .panel src).refuse .busy := by
  unfold State.unlessSaving
  rw [(hearing_heard s .panel src).mgmt, if_pos (Option.isSome_iff_ne_none.mpr h)]

theorem unlessSaving_free (act : State → State × Option Answer) (h : s.mgmt.save = none) :
    (s.heard .panel src).unlessSaving act = act (s.heard .panel src) := by
  unfold State.unlessSaving
  rw [(hearing_heard s .panel src).mgmt, h]; rfl

end

/-! ### The Channel Map -/

theorem mapEntryOfByte_load {load : Byte} {n : LoadNo} (hn : load.toNat = n.val) :
    mapEntryOfByte load = some (some n) := by
  have ne : load ≠ 255 := by rintro rfl; have := n.isLt; simp at hn; omega
  unfold mapEntryOfByte
  rw [if_neg ne, loadOfByte_of hn]; rfl

theorem mapEntryOfByte_beyond {load : Byte} (h : 47 < load.toNat) (ne : load ≠ 255) : mapEntryOfByte load = none := by
  unfold mapEntryOfByte loadOfByte
  rw [if_neg ne, dif_neg (by omega)]; rfl

/-- A taken MAP whose operands are in range comes to its effect, unless a save is in flight (R10, R164). -/
theorem exec_map {s : State} {src channel load : Byte} {e : Option LoadNo} (hc : channel.toNat ≤ 127)
    (he : mapEntryOfByte load = some e) :
    exec (.map src channel load) s = .next (s.manage src 6 3 true (some (channel.toNat, e))
      fun a s => s.unlessSaving fun s => (s.setMap a.1 a.2).done) := by
  simp only [exec, execMap, mapArgs, if_pos hc, he, Option.map_some]

/-- Settles O31: the operands' ranges decide between BAD_ARG and the rest, and then a save in flight between
BUSY and the entry's being set. -/
theorem mapSetsTheEntry : Obligations.MapSetsTheEntry := by
  unfold Obligations.MapSetsTheEntry
  intro s src channel load k h answers put
  have set (e : Option LoadNo) (hc : channel.toNat ≤ 127) (he : mapEntryOfByte load = some e)
      (free : s.mgmt.save = none) : exec (.map src channel load) s = .next ((put e).withReply src [6, 0]) := by
    have same : put e = h.setMap channel.toNat e := by
      simp only [put, State.setMap, h, (hearing_heard s .panel src).loads]
    rw [same, exec_map hc he]
    exact congrArg _ (manage_does k.1 (fun _ => k) (unlessSaving_free _ free) rfl)
  refine ⟨fun bad => ?_, fun hc hl busy => ?_, fun hc free => ⟨fun n hn => ?_, fun hl => ?_⟩⟩
  · have args : mapArgs channel load = none := by
      unfold mapArgs
      split
      · obtain ⟨beyond, ne⟩ := bad.resolve_left (by omega)
        rw [mapEntryOfByte_beyond beyond ne]; rfl
      · rfl
    simp only [answers, exec, execMap, args]
    exact congrArg _ (manage_badArg _ k.1)
  · obtain ⟨e, he⟩ : ∃ e, mapEntryOfByte load = some e := by
      rcases hl with hl | rfl
      · exact ⟨_, mapEntryOfByte_load (n := ⟨load.toNat, by omega⟩) rfl⟩
      · exact ⟨none, rfl⟩
    show exec _ s = _
    rw [exec_map hc he]
    exact congrArg _ (manage_refuses (status := .busy) k.1 (fun _ => k) (unlessSaving_busy _ busy))
  · exact set _ hc (mapEntryOfByte_load hn) free
  · exact set none hc (if_pos hl) free

/-! ### Reading an entry -/

/-- READ ENTRY answers the named copy, or NOT_FOUND (R168). -/
theorem exec_readEntry {s : State} {src load copy : Byte} {n : LoadNo} (k : s.Takes src 3) (hn : load.toNat = n.val)
    (hc : 1 ≤ copy.toNat ∧ copy.toNat ≤ 3) :
    exec (.readEntry src load copy) s = .next ((s.heard .panel src).withReply src
      (((s.heard .panel src).entryRecord n copy).elim [1, 3] ([1, 0] ++ ·))) := by
  have args : entryArgs load copy = some n := by simp [entryArgs, hc, loadOfByte_of hn]
  simp only [exec, execReadEntry, args]
  cases e : (s.heard .panel src).entryRecord n copy with
  | none => exact congrArg _ (manage_refuses (status := .notFound) k nofun (by simp only [e]))
  | some r => exact congrArg _ (manage_does (data := r) k nofun (by simp only [e]) rfl)

/-- The flag byte of a configuration record is the sum of its fields' bits (R186). -/
theorem flags_eq (method : Method) (hold auto dim : Bool) (authority : Authority) :
    method.bits + 4 * bit hold + 8 * bit auto + 16 * bit dim + 32 * authority.code =
      (match method with | .cut => 0 | .wind _ .cut => 1 | .wind _ .keep => 3) + (if hold then 4 else 0)
        + (if auto then 8 else 0) + (if dim then 16 else 0)
        + match authority with | .governed => 0 | .pass => 32 | .forcedOff => 64 := by
  cases hold <;> cases auto <;> cases dim <;> cases authority <;> rfl

theorem entryRecord_heard {s : State} {src : Byte} (n : LoadNo) (copy : Byte) :
    (s.heard .panel src).entryRecord n copy = s.entryRecord n copy := by
  have e := hearing_heard s .panel src
  simp only [State.entryRecord, live?_heard, slot_heard, e.isHeld, e.ladder]

/-- The three copies READ ENTRY names (R168). -/
theorem entryRecord_copies (s : State) (n : LoadNo) :
    s.entryRecord n 1 = (s.live? n).map (·.config.record) ∧
    s.entryRecord n 2 = s.loads.slots[n].draft.map LoadConfig.record ∧
    s.entryRecord n 3 = (s.live? n).map fun l =>
      l.run.record (s.isHeld n) (s.ladder.stack.findIdx? (·.load == n)) := ⟨rfl, rfl, rfl⟩

/-- Settles O16: the bytes are the records' own, and the three copies are what `State.entryRecord` finds. -/
theorem readEntryReturnsTheCopy : Obligations.ReadEntryReturnsTheCopy := by
  unfold Obligations.ReadEntryReturnsTheCopy
  refine ⟨fun c => ?_, ?_, ?_⟩
  · obtain ⟨home, target, tier, draw, method, minOn, minOff, hold, auto, dim, authority⟩ := c
    cases target <;> cases method <;> simp only [LoadConfig.record, flags_eq] <;> rfl
  · intro r held index left
    have timer (t : Option Nat) (unit : Nat) : timerBytes t unit = left t unit := by cases t <;> rfl
    have flags : bit r.overdue + 2 * bit r.userOff + 4 * bit held + 8 * bit r.withdrawn =
        (if r.overdue then 1 else 0) + (if r.userOff then 2 else 0) + (if held then 4 else 0)
          + if r.withdrawn then 8 else 0 := by
      cases r.overdue <;> cases r.userOff <;> cases held <;> cases r.withdrawn <;> rfl
    have state : byte r.state.code = match r.state with
        | .unknown => 1 | .absent => 2 | .off => 3 | .lockout => 4
        | .on => 5 | .winding => 6 | .shed => 7 | .restoring => 8 := by cases r.state <;> rfl
    have owed : byte (owedCode r.owed) = match r.owed with
        | none => 0 | some .off => 1 | some .wind => 2 | some (.on _ _) => 3 | some .query => 4 := by
      rcases r.owed with _ | o
      · rfl
      · cases o <;> rfl
    simp only [Runtime.record, timer, flags, state, owed] <;> rfl
  · intro s src load n k hn h
    obtain ⟨live, draft, runtime⟩ := entryRecord_copies s n
    have read (copy : Byte) (hc : 1 ≤ copy.toNat ∧ copy.toNat ≤ 3) :
        exec (.readEntry src load copy) s = .next (h.withReply src
          ((s.entryRecord n copy).elim [1, 3] ([1, 0] ++ ·))) := by
      rw [exec_readEntry k hn hc, entryRecord_heard]
    refine ⟨fun l hl => ⟨?_, ?_⟩, fun hl => ⟨?_, ?_⟩, fun c hd => ?_, fun hd => ?_⟩
    · rw [read 1 (by decide), live, hl]; rfl
    · rw [read 3 (by decide), runtime, hl]; rfl
    · rw [read 1 (by decide), live, hl]; rfl
    · rw [read 3 (by decide), runtime, hl]; rfl
    · rw [read 2 (by decide), draft, hd]; rfl
    · rw [read 2 (by decide), draft, hd]; rfl

/-! ### The configuration record -/

/-- The two bytes of a number below 65536 spell it (R182). -/
theorem num16_word16 {k : Nat} (h : k < 65536) : num16 (byte (k / 256)) (byte (k % 256)) = k := by
  simp only [num16, byte, BitVec.toNat_ofNat]; omega

theorem toNat_byte {k : Nat} (h : k < 256) : (byte k).toNat = k := by
  simp only [byte, BitVec.toNat_ofNat]; omega

theorem targetOfBytes_module {node out : Nat} (h : 1 ≤ node ∧ node ≤ 62 ∧ out ≤ 15) :
    targetOfBytes node out = some (.module node out) := if_pos h

theorem targetOfBytes_direct (d : Fin 4) : targetOfBytes 0 (d.val + 1) = some (.direct d) := by
  unfold targetOfBytes
  rw [if_neg (by omega), dif_pos (by omega)]; rfl

/-- The flag byte as a number: the method, three options and the authority, each in its own bits (R186). -/
def flagByte (c : LoadConfig) : Nat :=
  c.method.bits + 4 * bit c.hold + 8 * bit c.restoreAuto + 16 * bit c.dimmable + 32 * c.authority.code

theorem bit_le (b : Bool) : bit b ≤ 1 := by cases b <;> decide

theorem bit_eq_one (b : Bool) : decide (bit b = 1) = b := by cases b <;> rfl

/-- Each field reads its own bits of the flag byte (R186). -/
theorem flagByte_fields (c : LoadConfig) : flagByte c < 128 ∧ flagByte c % 4 = c.method.bits ∧
    flagByte c / 4 % 2 = bit c.hold ∧ flagByte c / 8 % 2 = bit c.restoreAuto ∧
    flagByte c / 16 % 2 = bit c.dimmable ∧ flagByte c / 32 % 4 = c.authority.code := by
  have a := bit_le c.hold
  have b := bit_le c.restoreAuto
  have d := bit_le c.dimmable
  have e : c.authority.code ≤ 2 := by cases c.authority <;> decide
  have f : c.method.bits ≤ 3 := by
    rcases c.method with _ | ⟨_, x⟩
    · decide
    · cases x <;> simp [Method.bits]
  unfold flagByte
  omega

theorem methodOf_flagByte (c : LoadConfig) : methodOf (flagByte c) c.method.grace = some c.method := by
  have bits := (flagByte_fields c).2.1
  unfold methodOf
  generalize flagByte c = f at bits
  rcases hm : c.method with _ | ⟨g, x⟩
  · simp only [hm, Method.bits, Method.grace] at bits ⊢
    rw [if_pos (by omega), if_pos ⟨trivial, by omega⟩]
  · cases x <;> simp only [hm, Method.bits, Method.grace] at bits ⊢ <;> rw [if_neg (by omega)]
    · rw [if_neg (by omega)]
    · rw [if_pos (by omega)]

theorem authorityOf_flagByte (c : LoadConfig) : authorityOf (flagByte c) = some c.authority := by
  unfold authorityOf
  rw [(flagByte_fields c).2.2.2.2.2]
  cases c.authority <;> rfl

/-- The two bytes of a valid target name it (R186). -/
theorem targetOfBytes_bytes {c : LoadConfig} (h : c.valid = true) : ∃ node out : Byte,
    c.target.bytes = [node, out] ∧ targetOfBytes node.toNat out.toNat = some c.target := by
  unfold LoadConfig.valid at h
  cases ht : c.target with
  | module node out =>
    simp only [ht, Bool.and_eq_true, decide_eq_true_eq] at h
    obtain ⟨⟨-, ⟨n1, n2⟩, o⟩, -⟩ := h
    refine ⟨byte node, byte out, rfl, ?_⟩
    rw [toNat_byte (by omega), toNat_byte (by omega)]
    exact targetOfBytes_module ⟨n1, n2, o⟩
  | direct d =>
    refine ⟨0, byte (d.val + 1), rfl, ?_⟩
    rw [toNat_byte (by omega)]
    exact targetOfBytes_direct d

/-- The ranges a valid configuration keeps its numbers in (R3). -/
theorem valid_ranges {c : LoadConfig} (h : c.valid = true) : c.homeChannel ≤ 127 ∧ c.tier ≤ 7 ∧ c.draw ≤ 3000 ∧
    c.minOn ≤ 1800 ∧ c.minOff ≤ 1800 ∧ c.method.grace ≤ 600 := by
  unfold LoadConfig.valid at h
  simp only [Bool.and_eq_true, decide_eq_true_eq] at h
  obtain ⟨⟨⟨⟨⟨⟨a, b⟩, d⟩, e⟩, f⟩, -⟩, m⟩ := h
  refine ⟨a, b, d, e, f, ?_⟩
  rcases hm : c.method with _ | ⟨g, x⟩
  · exact Nat.zero_le _
  · cases ht : c.target <;> simp [hm, ht] at m
    exact m.2

/-- Settles O6: each field is read back from its own bytes, and the flag byte's fields from their own bits. -/
theorem configurationRecordRoundTrip : Obligations.ConfigurationRecordRoundTrip := by
  unfold Obligations.ConfigurationRecordRoundTrip
  intro c h
  obtain ⟨node, out, bytes, target⟩ := targetOfBytes_bytes h
  obtain ⟨home, tier, draw, minOn, minOff, grace⟩ := valid_ranges h
  obtain ⟨small, -, hold, auto, dim, -⟩ := flagByte_fields c
  have record : c.record = [byte c.homeChannel, node, out, byte c.tier, byte (c.draw / 256), byte (c.draw % 256),
      byte (flagByte c), byte (c.method.grace / 256), byte (c.method.grace % 256), byte (c.minOn / 256),
      byte (c.minOn % 256), byte (c.minOff / 256), byte (c.minOff % 256)] := by
    unfold LoadConfig.record
    rw [bytes]; rfl
  refine ⟨by rw [record]; rfl, ?_⟩
  have whole : configOfRecord c.record = if flagByte c < 128 ∧ c.valid then some c else none := by
    rw [record]
    unfold configOfRecord
    simp only [num16_word16 (k := c.draw) (by omega), num16_word16 (k := c.method.grace) (by omega),
      num16_word16 (k := c.minOn) (by omega), num16_word16 (k := c.minOff) (by omega),
      toNat_byte (k := flagByte c) (by omega), toNat_byte (k := c.homeChannel) (by omega),
      toNat_byte (k := c.tier) (by omega), target, methodOf_flagByte, authorityOf_flagByte, hold, auto, dim,
      bit_eq_one]
  rw [whole, if_pos ⟨small, h⟩]

end Sys2Proof.TableProofs

namespace Sys2Proof.TableProofs

open Sys2Proof.Machine Sys2Proof.Laws

/-! ### Drafts -/

/-- A target that is not on the part's own address passes the last check of a written draft (R11). -/
theorem draftArgs_of {s : State} {load : Byte} {n : LoadNo} {c : LoadConfig} (hn : load.toNat = n.val)
    (valid : c.valid = true) (away : ∀ out, c.target ≠ .module s.mgmt.settings.nodeAddress out) :
    s.draftArgs load c.record = some (n, c) := by
  unfold State.draftArgs
  rw [loadOfByte_of hn, (configurationRecordRoundTrip c valid).2]
  cases ht : c.target with
  | module node out =>
    have : node ≠ s.mgmt.settings.nodeAddress := by rintro rfl; exact away out ht
    simp [ht, this]
  | direct d => simp [ht]

/-- Settles O26: WRITE DRAFT reads its record back, and DISCARD DRAFT asks whether a draft stands. -/
theorem draftsAreWrittenAndDiscarded : Obligations.DraftsAreWrittenAndDiscarded := by
  unfold Obligations.DraftsAreWrittenAndDiscarded
  intro s src load n hn h put
  have put_eq (d : Option LoadConfig) : put d = h.setDraft n d := by
    simp only [put, State.setDraft, h, slot_heard]
  refine ⟨fun c k valid away => ?_, fun k => ⟨fun hd => ?_, fun hd => ?_⟩⟩
  · rw [put_eq]
    simp only [exec, execWriteDraft, draftArgs_of hn valid away, (configurationRecordRoundTrip c valid).1]
    exact congrArg _ (manage_does k.1 (fun _ => k) rfl rfl)
  · simp only [exec, execDiscardDraft, loadOfByte_of hn]
    refine congrArg _ (manage_refuses (status := .notFound) k.1 (fun _ => k) (if_neg ?_))
    rw [slot_heard, hd]; simp
  · rw [put_eq]
    simp only [exec, execDiscardDraft, loadOfByte_of hn]
    refine congrArg _ (manage_does k.1 (fun _ => k) (if_pos ?_) rfl)
    rw [slot_heard]; exact Option.isSome_iff_ne_none.mpr hd

/-! ### Frames that go no further -/

/-- A good frame with the part's own address as source raises NODE_CONFLICT (R137, R139). -/
theorem takeFrame_own {s : State} {line : Line} {dst : Byte} {length : Nat} (k : State → State)
    (free : s.inResetHold = false) (header : headerOk s.own dst = true) (short : length ≤ 16) :
    s.takeFrame line s.own dst length k = s.lineActivity.raise .nodeConflict := by
  have ho : s.lineActivity.own = s.own := (hearing_lineActivity s).own
  unfold headerOk at header
  simp [State.takeFrame, free, header, Nat.not_lt.mpr (show length ≤ Config.bodyMax from short), ho]

/-- A STATE report before LOAD has ended, or of no live load's target, is dropped (R9, R34). -/
theorem takeState_dropped {s : State} {src out : Byte} {kind level : Nat} (effect : State → LoadNo → Live → State)
    (h : s.beforeLoadEnds = true ∨ ∀ n l, s.live? n = some l → l.config.target ≠ .module src.toNat out.toNat) :
    s.takeState src out kind level effect = s := by
  unfold State.takeState
  split
  · rfl
  · rename_i early
    have unmatched : s.loadAt src.toNat out.toNat = none := by
      have none_has := h.resolve_left fun e => early (.inr e)
      refine List.find?_eq_none.mpr fun n _ => ?_
      cases hl : s.live? n with
      | none => simp
      | some l => simpa using none_has n l hl
    rw [unmatched]

/-- An occurrence leaves its cause pending, whatever the NOTICE it brings (R177, R178). -/
theorem raise_pending (s : State) (c : Cause) : (s.raise c).attention[c.index].pending = true := by
  have set (t : State) (i : Fin 15) : (t.modifyCause i fun f => { f with pending := true }).attention[i].pending = true := by
    simp
  have kept (t : State) (i j : Fin 15) (h : t.attention[i].pending = true) :
      (t.modifyCause j fun f => { f with pending := true }).attention[i].pending = true := by
    by_cases e : j = i
    · subst e; exact set t j
    · have : j.val ≠ i.val := fun q => e (Fin.ext q)
      simpa [Vector.getElem_set_ne _ _ this] using h
  unfold State.raise State.announce
  split
  · split
    · exact set ..
    · exact kept _ _ _ (set ..)
  · exact set ..

/-- Settles O11: a frame that is heard and has no effect of its own leaves the state it met; one that fails its
port's check, or carries the part's own address, leaves its cause pending and nothing learned. -/
theorem framesThatGoNoFurther : Obligations.FramesThatGoNoFurther := by
  unfold Obligations.FramesThatGoNoFurther
  refine ⟨fun s line src dst body k => ⟨fun kind ignored => ?_, ?_, ?_⟩,
    fun s src dst out level c k hc unmatched => ?_,
    fun s line free => ⟨fun bytes bad => ?_, fun dst body header short => ⟨?_, ?_, ?_⟩, fun c => ⟨?_, ?_, ?_⟩⟩⟩
  · simp only [exec, execFrameIgnored, if_pos ignored]
    exact congrArg _ (takeFrame_hears _ k)
  · exact congrArg _ (takeFrame_hears _ k)
  · exact congrArg _ (takeFrame_hears _ k)
  · have e := hearing_heard s .load src
    have dropped {kind lv : Nat} (effect : State → LoadNo → Live → State) :
        (s.heard .load src).takeState src out kind lv effect = s.heard .load src := by
      refine takeState_dropped effect ?_
      unfold State.beforeLoadEnds
      rcases unmatched with p | p | p
      · simp [e.phase, p]
      · simp [e.phase, p]
      · exact .inr fun n l hl => p n l (e.live n ▸ hl)
    have short : s.Hears src dst 2 := hears_le k (by omega)
    rcases hc with rfl | rfl | rfl | rfl | rfl
    · have fits : s.Hears src dst (2 + level.toList.length) := hears_le k (by cases level <;> simp)
      simp only [exec, execOnReport, takeFrame_hears _ fits, dropped, ite_self]
    all_goals
      simp only [exec, execOffReport, execWindingReport, execStoppedReport, execFaultReport, takeFrame_hears _ short,
        dropped]
  · simp only [exec, execFrameDiscarded, free, bad, Option.isSome_none, Bool.or_self, Bool.false_eq_true, if_false]
  · exact congrArg _ (takeFrame_own _ free header short)
  · exact congrArg _ (takeFrame_own _ free header short)
  · exact congrArg _ (takeFrame_own _ free header short)
  · rw [(talk_raise s.lineActivity c).sides]
    unfold State.lineActivity
    split
    · exact (endDoze_lists s).1
    · rfl
  · rw [(talk_raise s.lineActivity c).loads, (hearing_lineActivity s).loads]
  · exact raise_pending ..

/-! ### Requests that a check refuses -/

section
variable {s : State} {src dst ch : Byte} {n : LoadNo} {l : Live} {reason : RefuseReason}

theorem byte_toNat (b : Byte) : byte b.toNat = b := by simp [byte]

/-- A refusal that finds room is the REPLY REFUSED on the channel used (R128). -/
theorem answerSwitch_refused (room : s.ports.replies.length < 8) :
    s.answerSwitch src.toNat ch.toNat (.refused reason) = s.withReply src [0, 1, ch, byte reason.code] := by
  rw [answerSwitch_room room, byte_toNat]
  simp only [SwitchReply.codes, byte_toNat]
  rfl

/-- A request of a channel in STARTING, or of one without a live load, is refused by the first checks (R119, R120). -/
theorem takeRequest_refused (act : LoadNo → Live → State) :
    (s.control.mode = .starting →
      s.takeRequest src.toNat ch.toNat act = s.answerSwitch src.toNat ch.toNat (.refused .notReady)) ∧
    (s.control.mode ≠ .starting → (∀ n, s.loads.map[ch.toNat]? = some (some n) → s.live? n = none) →
      s.takeRequest src.toNat ch.toNat act = s.answerSwitch src.toNat ch.toNat (.refused .unmapped)) := by
  refine ⟨fun m => if_pos m, fun m empty => ?_⟩
  have unmapped : s.mapped ch.toNat = none := by
    unfold State.mapped
    rcases hm : s.loads.map[ch.toNat]? with _ | _ | n
    · rfl
    · rfl
    · simp [empty n hm]
  unfold State.takeRequest
  rw [if_neg m, unmapped]

/-- The two refusals that need no live load, as replies on the state the frame meets. -/
theorem takeRequest_heard (act : LoadNo → Live → State) (room : (s.heard .panel src).ports.replies.length < 8) :
    (s.control.mode = .starting →
      (s.heard .panel src).takeRequest src.toNat ch.toNat act = (s.heard .panel src).withReply src [0, 1, ch, 3]) ∧
    (s.control.mode ≠ .starting → (∀ n, s.loads.map[ch.toNat]? = some (some n) → s.live? n = none) →
      (s.heard .panel src).takeRequest src.toNat ch.toNat act = (s.heard .panel src).withReply src [0, 1, ch, 1]) := by
  have e := hearing_heard s .panel src
  obtain ⟨starting, unmapped⟩ := takeRequest_refused (s := s.heard .panel src) (src := src) (ch := ch) act
  rw [e.mode] at starting unmapped
  refine ⟨fun m => (starting m).trans (answerSwitch_refused room), fun m empty => ?_⟩
  refine (unmapped m fun n hn => ?_).trans (answerSwitch_refused room)
  rw [e.live]; exact empty n (e.loads ▸ hn)

/-- An OFF, or a LEVEL 0, that is heard comes to the Admission Unit (R119, R126). -/
theorem exec_off {c : Instr} (hc : c = .offRequest src dst ch ∨ c = .levelRequest src dst ch 0)
    (k : s.Hears src dst 3) (channel : ch.toNat ≤ 127) :
    exec c s = .next ((s.heard .panel src).admissionOff src ch) := by
  rcases hc with rfl | rfl
  · simp only [exec, execOffRequest, takeFrame_hears _ (hears_le k (show 2 ≤ 3 by omega))]
    rw [if_neg (by omega)]
  · simp only [exec, execLevelRequest, takeFrame_hears _ k]
    rw [if_neg (by simp; omega)]; rfl

theorem judge_heard : (s.heard .panel src).judge l = s.judge l := by
  have e := hearing_heard s .panel src
  simp only [State.judge, e.mode, e.cutTier, e.ceiling, e.draw]

/-- The checks of a GOVERNED load's request out of BYPASS, in their order (R120). -/
theorem judge_governed (a : l.config.authority = .governed) (b : s.control.mode ≠ .bypass) :
    s.judge l =
      if l.run.state = .unknown then .notReady
      else if l.run.state = .absent then .absent
      else if l.run.state = .on ∨ l.run.state = .restoring then .running
      else if l.run.state = .winding then .winding
      else if s.control.mode = .storage ∧ 1 ≤ l.config.tier then .stored
      else if s.cutTier ≤ l.config.tier then .staged
      else if l.run.state = .lockout ∨ (l.run.state = .shed ∧ l.run.lockout.isSome) then .locked
      else if s.ceiling < s.draw + l.config.draw then .overBudget
      else .grant := by
  unfold State.judge
  rw [if_neg (by simp [a]), if_neg (by simp [a]), if_neg b]

/-- The reason each refusing check answers, where a load is not held for (R120, R121, R128). -/
def refusal : Verdict → Option RefuseReason
  | .forced => some .forced
  | .notReady => some .notReady
  | .absent => some .absent
  | .winding => some .shed
  | .stored => some .stored
  | .staged => some .shed
  | .locked => some .lockout
  | .overBudget => some .budget
  | .pass => none
  | .running => none
  | .grant => none

/-- The checks whose outcome is "hold" for a load with the hold option (R121). -/
def mayHold : Verdict → Bool
  | .winding => true
  | .staged => true
  | .locked => true
  | .overBudget => true
  | _ => false

/-- A request stopped by a check that does not hold it is refused with that check's reason (R120, R121). -/
theorem decideRequest_refused {w : Wish} {q m : Nat} (hr : refusal (s.judge l) = some reason)
    (hh : mayHold (s.judge l) = true → l.config.hold = false) :
    s.decideRequest n l q m w = s.answerSwitch q m (.refused reason) := by
  unfold State.decideRequest
  cases hv : s.judge l <;> rw [hv] at hr hh <;> cases hr
  all_goals
    first
    | rfl
    | exact if_neg (by simp [hh rfl])

end

/-- Settles O37: STARTING and an unmapped channel are the first two checks of every request, and the rest follow
the order of `State.judge`. -/
theorem refusedRequestsAreAnswered : Obligations.RefusedRequestsAreAnswered := by
  unfold Obligations.RefusedRequestsAreAnswered
  refine ⟨fun s src dst channel c hc k small room => ?_, fun s src dst channel c w asks k small room => ?_⟩
  · obtain ⟨starting, unmapped⟩ := takeRequest_heard (ch := channel)
      (fun n l => (s.heard .panel src).decideOff n l src.toNat channel.toNat) room
    simp only [exec_off hc k small]
    exact ⟨fun m => congrArg _ (starting m), fun m empty => congrArg _ (unmapped m empty)⟩
  · obtain ⟨starting, unmapped⟩ := takeRequest_heard (ch := channel)
      (fun n l => (s.heard .panel src).decideRequest n l src.toNat channel.toNat w) room
    intro refused
    have asked : exec c s = .next ((s.heard .panel src).admission src channel w) := asks_exec asks k small
    refine ⟨fun m => asked.trans (congrArg _ (starting m)),
      fun m empty => asked.trans (congrArg _ (unmapped m empty)), fun n l reaches => ?_⟩
    have stopped {v : Verdict} {r : RefuseReason} (hv : s.judge l = v) (hr : refusal v = some r)
        (hh : mayHold v = true → l.config.hold = false) : refused (byte r.code) := by
      subst hv
      have judged := judge_heard (s := s) (src := src) (l := l)
      show exec c s = _
      rw [asked, admission_reaches reaches (hearing_heard s .panel src),
        decideRequest_refused (judged ▸ hr) (judged ▸ hh), answerSwitch_refused room]
    refine ⟨fun a => ?_, fun a b => ?_⟩
    · exact stopped (v := .forced) (by simp [State.judge, a]) rfl nofun
    have judge := judge_governed (s := s) a b
    refine ⟨fun st => ?_, fun st => ?_, fun st hold => ?_, ?_⟩
    · exact stopped (v := .notReady) (by simp [judge, st]) rfl nofun
    · exact stopped (v := .absent) (by simp [judge, st]) rfl nofun
    · exact stopped (v := .winding) (by simp [judge, st]) rfl fun _ => hold
    · intro st locked stored
      have waits : s.judge l =
          if stored then .stored
          else if s.cutTier ≤ l.config.tier then .staged
          else if locked then .locked
          else if s.ceiling < s.draw + l.config.draw then .overBudget
          else .grant := by
        rw [judge]
        rcases st with st | st | st <;> simp [st, stored, locked, Option.isSome_iff_ne_none]
      refine ⟨fun p => ?_, fun p q hold => ?_, fun p q lk hold => ?_, fun p q lk dear hold => ?_⟩
      · exact stopped (v := .stored) (by rw [waits, if_pos p]) rfl nofun
      · exact stopped (v := .staged) (by rw [waits, if_neg p, if_pos q]) rfl fun _ => hold
      · exact stopped (v := .locked) (by rw [waits, if_neg p, if_neg (by omega), if_pos lk]) rfl fun _ => hold
      · exact stopped (v := .overBudget)
          (by rw [waits, if_neg p, if_neg (by omega), if_neg lk, if_pos dear]) rfl fun _ => hold

end Sys2Proof.TableProofs

namespace Sys2Proof.TableProofs

open Sys2Proof.Machine Sys2Proof.Laws

/-! ### The drafts and the census -/

/-- `t` has the drafts of `s`, and its census. -/
structure Untouched (s t : State) : Prop where
  draft : ∀ m : LoadNo, t.loads.slots[m].draft = s.loads.slots[m].draft := by exact fun _ => rfl
  census : t.control.census = s.control.census := by rfl

theorem Untouched.refl (s : State) : Untouched s s := { }

theorem Untouched.trans {s t u : State} (h : Untouched s t) (k : Untouched t u) : Untouched s u :=
  ⟨fun m => (k.draft m).trans (h.draft m), k.census.trans h.census⟩

theorem untouched_talk {s t : State} (h : Talk s t) : Untouched s t :=
  ⟨fun _ => by rw [h.loads], by rw [h.control]⟩

theorem untouched_foldl {α : Type} {f : State → α → State} (hf : ∀ s a, Untouched s (f s a)) (l : List α)
    (s : State) : Untouched s (l.foldl f s) := by
  induction l generalizing s with
  | nil => exact Untouched.refl s
  | cons a l ih => exact (hf s a).trans (ih _)

theorem untouched_either {f g : State → State} (hf : ∀ s, Untouched s (f s)) (hg : ∀ s, Untouched s (g s))
    (s : State) : Untouched s (s.eitherOrder f g) := by
  have hc : Untouched s s.chosen := { }
  unfold State.eitherOrder
  split
  · exact hc.trans ((hf _).trans (hg _))
  · exact hc.trans ((hg _).trans (hf _))

theorem draft_setSlot (s : State) (n m : LoadNo) (slot : Slot) :
    (s.setSlot n slot).loads.slots[m].draft = if m = n then slot.draft else s.loads.slots[m].draft := by
  by_cases h : m = n
  · subst h; simp
  · have : n.val ≠ m.val := fun e => h (Fin.ext e.symm)
    simp [h, Vector.getElem_set_ne _ _ this]

section
variable (s : State) (n : LoadNo)

theorem untouched_setSlot (live : Option Live) :
    Untouched s (s.setSlot n { s.loads.slots[n] with live := live }) where
  draft m := by
    rw [draft_setSlot]; split
    · subst_vars; rfl
    · rfl

theorem untouched_changeRun (f : LoadConfig → Runtime → Runtime) : Untouched s (s.changeRun n f) :=
  untouched_setSlot ..

theorem untouched_oweOn (level : Option Nat) : Untouched s (s.oweOn n level) := by
  unfold State.oweOn
  split
  · exact Untouched.refl s
  · exact ⟨(untouched_changeRun s n fun _ r => { r with owed := _ }).draft, rfl⟩

theorem untouched_commandOff : Untouched s (s.commandOff n) := by
  unfold State.commandOff
  split
  · exact untouched_changeRun ..
  · exact { }
  · exact Untouched.refl s

theorem untouched_commandOn (level : Option Nat) : Untouched s (s.commandOn n level) := by
  unfold State.commandOn
  split
  · exact untouched_oweOn ..
  · exact { }
  · exact Untouched.refl s

theorem untouched_decideHeld (r : SwitchReply) : Untouched s (s.decideHeld n r) := by
  unfold State.decideHeld
  split
  · exact Untouched.trans (t := s.unhold n) { } (untouched_talk (talk_answerSwitch ..))
  · exact Untouched.refl s

theorem untouched_leaveStack : Untouched s (s.leaveStack n) :=
  Untouched.trans (t := s.unstack n) { } (untouched_changeRun ..)

theorem untouched_restoreEnded : Untouched s (s.restoreEnded n) := by
  unfold State.restoreEnded
  split <;> exact { }

/-! Restoration -/

theorem untouched_relevel (level : Option Nat) : Untouched s (s.relevel n level) := by
  unfold State.relevel
  split
  · exact ((untouched_changeRun s n _).trans (untouched_commandOn ..)).trans (untouched_talk (talk_reportDirect ..))
  · exact Untouched.refl s

theorem untouched_takeHeldLevel (c : LoadConfig) (w : Wish) : Untouched s (s.takeHeldLevel n c w) := by
  unfold State.takeHeldLevel
  split
  · exact Untouched.refl s
  · split
    · exact untouched_relevel ..
    · exact Untouched.refl s

theorem untouched_grantByRestore : Untouched s (s.grantByRestore n) := by
  unfold State.grantByRestore
  split
  · exact (untouched_decideHeld ..).trans (untouched_takeHeldLevel ..)
  · exact Untouched.refl s

theorem untouched_restore (e : StackEntry) : Untouched s (s.restore e) := by
  have out : Untouched s (s.unstack e.load) := { }
  unfold State.restore
  split
  · exact Untouched.refl s
  · dsimp only
    split
    · refine Untouched.trans ?_ (untouched_grantByRestore ..)
      exact ((out.trans (untouched_changeRun ..)).trans (untouched_oweOn ..)).trans { }
    · refine Untouched.trans ?_ (untouched_grantByRestore ..)
      refine Untouched.trans ?_ (untouched_talk (talk_reportDirect ..))
      exact (out.trans (untouched_changeRun _ _ _)).trans { }

theorem untouched_scanEvent : Untouched s s.scanEvent := by
  unfold State.scanEvent State.scan
  split
  · split
    · exact untouched_restore ..
    · exact Untouched.refl s
  · exact Untouched.refl s

/-! Admission -/

theorem untouched_forwardPass (w : Wish) : Untouched s (s.forwardPass n w) := by
  have driven (t : State) (d : Fin 4) : Untouched t ((t.unstack n).setOutput d true) := { }
  unfold State.forwardPass State.directOn
  split
  · exact untouched_talk (talk_joinLoadFifo ..)
  · split
    · exact ((untouched_changeRun s n _).trans (driven ..)).trans (untouched_talk (talk_reportDirect ..))
    · exact Untouched.refl s
  · exact Untouched.refl s

theorem untouched_switchOn (w : Wish) : Untouched s (s.switchOn n w) := by
  unfold State.switchOn
  split
  · exact ((Untouched.trans (t := s.unstack n) { } (untouched_changeRun ..)).trans (untouched_commandOn ..)).trans
      (untouched_talk (talk_reportDirect ..))
  · exact Untouched.refl s

theorem untouched_replayEntry (h : Held) : Untouched s (s.replayEntry h) := by
  have out : Untouched s (s.unhold h.load) := { }
  unfold State.replayEntry
  split
  · exact Untouched.refl s
  · split
    · exact (out.trans (untouched_talk (talk_answerSwitch ..))).trans (untouched_forwardPass ..)
    · exact untouched_decideHeld ..
    · exact untouched_decideHeld ..
    · exact untouched_decideHeld ..
    · exact (out.trans (untouched_switchOn ..)).trans (untouched_talk (talk_answerSwitch ..))
    all_goals exact Untouched.refl s

theorem untouched_replayEvent : Untouched s s.replayEvent := by
  unfold State.replayEvent
  split
  · exact untouched_foldl untouched_replayEntry ..
  · exact Untouched.refl s

theorem untouched_blocksTake (scan replay : Bool) : Untouched s (s.blocksTake scan replay) := by
  unfold State.blocksTake
  split
  · exact untouched_either untouched_scanEvent untouched_replayEvent s
  · exact untouched_scanEvent s
  · exact untouched_replayEvent s
  · exact Untouched.refl s

theorem untouched_drawFell : Untouched s s.drawFell := untouched_blocksTake s true true

theorem untouched_reportDraw (before : State) : Untouched s (s.reportDraw before) := by
  unfold State.reportDraw
  split
  · exact untouched_drawFell s
  · exact Untouched.refl s

theorem untouched_reportFalls (before : State) : Untouched s (s.reportFalls before State.drawFell) :=
  untouched_foldl (fun t _ => untouched_drawFell t) ..

/-! The Shed Ladder -/

theorem untouched_dropWithdrawn : Untouched s (s.dropWithdrawn n) :=
  (untouched_changeRun ..).trans (untouched_commandOff ..)

theorem untouched_shedOne (cause : ShedCause) : Untouched s (s.shedOne n cause) := by
  have push (t : State) (e : StackEntry) : Untouched t (t.push e) := { }
  have record (l : Live) : Untouched s (s.shedRecord n l cause) := by
    unfold State.shedRecord
    split
    · exact untouched_dropWithdrawn ..
    · split
      · exact ((untouched_changeRun s n _).trans (untouched_changeRun ..)).trans (push ..)
      · split
        · exact ((untouched_changeRun s n _).trans (untouched_commandOff ..)).trans (push ..)
        · exact (untouched_changeRun ..).trans (untouched_commandOff ..)
  unfold State.shedOne
  split
  · exact Untouched.refl s
  · split
    · exact ((record _).trans (untouched_restoreEnded ..)).trans (untouched_talk (talk_reportDirect ..))
    · exact Untouched.refl s

theorem untouched_shed (cause : ShedCause) : Untouched s (s.shed cause n) :=
  (untouched_shedOne ..).trans (untouched_reportDraw ..)

theorem untouched_sweep : Untouched s s.sweep :=
  (untouched_foldl (fun t _ => untouched_shed t _ _) _ s).trans (untouched_talk (talk_enforcedFor ..))

theorem untouched_gaspOne : Untouched s (s.gaspOne n) := by
  have lift (t : State) : Untouched t (t.liftEntry n) := by
    unfold State.liftEntry
    split <;> exact { }
  have record (l : Live) : Untouched s (s.gaspRecord n l) := by
    unfold State.gaspRecord
    split
    · exact untouched_dropWithdrawn ..
    · split
      · exact ((untouched_changeRun s n _).trans (untouched_commandOff ..)).trans (lift _)
      · exact ((untouched_changeRun s n _).trans (untouched_commandOff ..)).trans { }
  unfold State.gaspOne
  split
  · exact Untouched.refl s
  · split
    · exact ((record _).trans (untouched_restoreEnded ..)).trans (untouched_talk (talk_reportDirect ..))
    · exact Untouched.refl s

theorem untouched_lastGasp : Untouched s s.lastGasp := by
  unfold State.lastGasp
  split
  · exact (untouched_foldl untouched_gaspOne ..).trans (untouched_talk (talk_raise ..))
  · exact untouched_talk (talk_raise ..)

/-! Modes -/

theorem untouched_releaseEntry : Untouched s (s.releaseEntry n) := by
  have departed (st : LoadState) : Untouched s (s.departed n st) := by
    cases st
    case winding =>
      exact (Untouched.trans (t := s.unstack n) { } (untouched_changeRun ..)).trans (untouched_commandOff ..)
    case shed => exact untouched_leaveStack s n
    all_goals exact Untouched.refl s
  unfold State.releaseEntry
  split
  · dsimp only
    split
    · exact (departed _).trans (untouched_talk (talk_reportDirect ..))
    · exact ((departed _).trans (untouched_talk (talk_reportDirect ..))).trans (untouched_reportDraw ..)
  · exact Untouched.refl s

theorem untouched_releaseEntries (p : StackEntry → Bool) : Untouched s (s.releaseEntries p) :=
  untouched_foldl untouched_releaseEntry ..

theorem untouched_withdrawHeld (p : Held → Bool) (r : WithdrawReason) : Untouched s (s.withdrawHeld p r) :=
  untouched_foldl (fun t _ => untouched_decideHeld t _ _) ..

theorem untouched_endDoze : Untouched s s.endDoze :=
  have e := hearing_endDoze s
  ⟨fun _ => by rw [e.loads], e.census⟩

theorem untouched_enterMode (old : Mode) : Untouched s (s.enterMode old) := by
  unfold State.enterMode
  split
  · exact (untouched_releaseEntries ..).trans (untouched_withdrawHeld ..)
  · unfold State.enterGoverning
    split
    · exact untouched_sweep s
    · exact Untouched.refl s
  · exact (((untouched_foldl (fun t _ => untouched_shed t _ .storage) _ s).trans (untouched_withdrawHeld ..)).trans
      { }).trans (untouched_talk (talk_enforcedFor ..))
  · exact Untouched.refl s

theorem untouched_changeMode (new : Mode) : Untouched s (s.changeMode new) := by
  have left : Untouched s (s.leaveFor new) := by
    unfold State.leaveFor State.leaveStorage
    split
    · exact ((Untouched.trans (t := s.setMode new) { } (untouched_releaseEntries ..)).trans
        (untouched_endDoze _)).trans { }
    · exact { }
  have told (t : State) : Untouched t (t.tellDepartures s new) := by
    unfold State.tellDepartures
    split
    · exact untouched_reportFalls ..
    · exact Untouched.refl _
  have gasp (t : State) : Untouched t (t.gaspOnEntry new) := by
    unfold State.gaspOnEntry
    split
    · exact (untouched_lastGasp _).trans (untouched_reportFalls ..)
    · exact Untouched.refl _
  exact (((left.trans (untouched_enterMode ..)).trans (told _)).trans (gasp _)).trans (untouched_blocksTake ..)

/-- The end of a census leaves the drafts alone (R161, R163). -/
theorem draft_censusEnds (m : LoadNo) : s.censusEnds.loads.slots[m].draft = s.loads.slots[m].draft := by
  unfold State.censusEnds
  split
  · rfl
  · dsimp only
    split
    · split
      · rfl
      · exact (untouched_changeMode ..).draft m
    · split <;> rfl

theorem config?_censusEnds (m : LoadNo) : config? s.censusEnds m = config? s m := by
  unfold State.censusEnds
  split
  · rfl
  · dsimp only
    split
    · split
      · rfl
      · exact (acts_changeMode _ _).config m
    · split <;> rfl

end

end Sys2Proof.TableProofs

namespace Sys2Proof.TableProofs

open Sys2Proof.Machine Sys2Proof.Laws

/-! ### Retiring -/

section
variable {s : State} {src load : Byte} {n : LoadNo} {l : Live}

theorem isDown_iff (st : LoadState) : st.isDown = true ↔ st = .off ∨ st = .unknown ∨ st = .absent := by
  cases st <;> simp [LoadState.isDown]

theorem isDown_counted {st : LoadState} (h : st.isDown = true) : st.counted = true ↔ st = .unknown := by
  cases st <;> simp_all [LoadState.isDown, LoadState.counted]

theorem slot_draw_live (hl : s.live? n = some l) :
    s.loads.slots[n].draw = if l.run.state.counted then l.config.draw else 0 := by
  have : s.loads.slots[n].live = some l := hl
  unfold Slot.draw; rw [this]

/-- A sum over a list in which one element's number changes. -/
theorem sum_changed {α : Type} {f g : α → Nat} {a : α} (others : ∀ b, b ≠ a → g b = f b) :
    ∀ {as : List α}, as.Nodup → a ∈ as → (as.map g).sum + f a = (as.map f).sum + g a
  | [], _, mem => nomatch mem
  | b :: bs, once, mem => by
    obtain ⟨first, rest⟩ := List.nodup_cons.mp once
    simp only [List.map_cons, List.sum_cons]
    rcases List.mem_cons.mp mem with rfl | mem
    · rw [List.map_congr_left fun c hc => others c fun same => first (same ▸ hc)]
      omega
    · have tail := sum_changed others rest mem
      have head := others b fun same => first (same ▸ mem)
      omega

/-- Committed draw after a slot is replaced (R25). -/
theorem draw_setSlot (s : State) (n : LoadNo) (slot : Slot) :
    (s.setSlot n slot).draw + s.loads.slots[n].draw = s.draw + slot.draw := by
  have others (m : LoadNo) (h : m ≠ n) : (s.setSlot n slot).loads.slots[m].draw = s.loads.slots[m].draw :=
    congrArg Slot.draw (Vector.getElem_set_ne n.isLt m.isLt fun same => h (Fin.ext same.symm))
  have changed : (s.setSlot n slot).loads.slots[n].draw = slot.draw :=
    congrArg Slot.draw (Vector.getElem_set_self n.isLt)
  have sum := sum_changed others (List.nodup_finRange 48) (List.mem_finRange n)
  rw [changed] at sum
  exact sum

theorem draw_congr {s t : State} (h : t.loads = s.loads) : t.draw = s.draw := by unfold State.draw; rw [h]

/-- The state once a retired load's slot is empty and the load out of a census (R20, R161). -/
def retired (s : State) (n : LoadNo) : State :=
  (s.setSlot n { s.loads.slots[n] with live := none }).leaveCensus n

/-- Retiring a load that is down is a decrease exactly when it was UNKNOWN with a nominal draw (R20, R25). -/
theorem reportDraw_retired (hl : s.live? n = some l) (down : l.run.state.isDown = true) :
    (retired s n).reportDraw s =
      if l.run.state = .unknown ∧ l.config.draw ≠ 0 then (retired s n).drawFell else retired s n := by
  have sum : (retired s n).draw + s.loads.slots[n].draw = s.draw + 0 :=
    draw_setSlot s n { s.loads.slots[n] with live := none }
  rw [slot_draw_live hl] at sum
  have falls : (retired s n).draw < s.draw ↔ l.run.state = .unknown ∧ l.config.draw ≠ 0 := by
    rw [← isDown_counted down]
    by_cases c : l.run.state.counted = true
    · simp only [c, if_true, true_and] at sum ⊢; omega
    · simp only [c] at sum ⊢; simp at sum ⊢; omega
  unfold State.reportDraw
  simp only [falls]

/-- A retired load is in no census, also after the event its decrease is (R25, R161). -/
theorem retired_left (t : State) (h : Untouched (retired s n) t) :
    ∀ asked, t.control.census = some asked → n ∉ asked := by
  intro asked ha
  rw [h.census] at ha
  obtain ⟨was, -, rfl⟩ := Option.map_eq_some_iff.mp (show s.control.census.map (·.filter (· != n)) = _ from ha)
  simp

/-- An accepted RETIRE, from its held request's answer on (R20, R134, R161). -/
theorem retire_eq (hl : (s.decideHeld n (.withdrawn .retired)).live? n = some l) (down : l.run.state.isDown = true) :
    s.retire n = (if l.run.state = .unknown ∧ l.config.draw ≠ 0
      then (retired (s.decideHeld n (.withdrawn .retired)) n).drawFell
      else retired (s.decideHeld n (.withdrawn .retired)) n).heardInCensus n := by
  rw [← reportDraw_retired hl down, ← censusCheck_of_left]
  · rfl
  · exact retired_left _ (untouched_reportDraw ..)

theorem manageReply_ok (s : State) (dst code : Byte) :
    s.answerManage dst code { status := .ok } =
      s.joinReply { kind := .reply, src := s.own, dst := dst, body := [code, 0] } := rfl

theorem own_of {s t : State} (h : t.mgmt = s.mgmt) : t.own = s.own := by unfold State.own; rw [h]

theorem mgmt_heardInCensus (s : State) (n : LoadNo) : (s.heardInCensus n).mgmt = s.mgmt := by
  unfold State.heardInCensus
  split
  · rfl
  · exact mgmt_censusEnds _

/-- A write-kind request that is taken with no save in flight, and carried out, answers OK last (R148, R164). -/
theorem manage_writes {α : Type} {code : Byte} {length : Nat} {a : α} {act : α → State → State × Option Answer}
    {t : State} (k : s.TakesWrite src length) (free : s.mgmt.save = none)
    (r : act a (s.heard .panel src) = t.done) (own : t.mgmt = s.mgmt) :
    s.manage src code length true (some a) (fun a u => u.unlessSaving (act a)) =
      t.joinReply { kind := .reply, src := s.own, dst := src, body := [code, 0] } := by
  rw [manage_takes _ k.1 fun _ => k, unlessSaving_free _ free, r]
  show t.answerManage src code { status := .ok } = _
  rw [manageReply_ok, own_of own]

/-- A RETIRE that is taken with no save in flight makes the rest of its checks (R20). -/
theorem exec_retire (hn : load.toNat = n.val) :
    exec (.retire src load) s =
      .next (s.manage src 5 2 true (some n) fun n u => u.unlessSaving (·.retireChecked n)) := by
  simp only [exec, execRetire, loadOfByte_of hn]

end

/-- Settles O30: the checks of `State.retireChecked` in their order, and then `retire_eq`. -/
theorem retireRemovesTheLiveCopy : Obligations.RetireRemovesTheLiveCopy := by
  unfold Obligations.RetireRemovesTheLiveCopy
  intro s src load n k hn free h
  have e : Hearing s h := hearing_heard s .panel src
  have refused (status : Status) (r : h.retireChecked n = h.refuse status) :
      exec (.retire src load) s = .next (h.withReply src [5, byte status.code]) := by
    rw [exec_retire hn]
    exact congrArg _ (manage_refuses k.1 (fun _ => k) ((unlessSaving_free _ free).trans r))
  refine ⟨fun hl => ?_, ?_⟩
  · refine refused .notFound ?_
    unfold State.retireChecked
    rw [e.live, hl]
  intro l hl down
  have checked : h.retireChecked n = if l.run.state.isDown = false then h.refuse .loadActive
      else if l.run.owed = some .off then h.refuse .loadBusy else (h.retire n).done := by
    unfold State.retireChecked
    rw [e.live, hl]
  have isDown : down ↔ l.run.state.isDown = true := (isDown_iff _).symm
  refine ⟨fun up => ?_, fun d owed => ?_, ?_⟩
  · exact refused .loadActive (by rw [checked, if_pos (by simpa using (not_congr isDown).mp up)])
  · exact refused .loadBusy (by rw [checked, if_neg (by simpa using isDown.mp d), if_pos owed])
  intro h' answered d owed gone left told
  have decided : h.decideHeld n (.withdrawn .retired) = h' := by
    rcases answered with ⟨hh, rfl⟩ | ⟨q, hq, rfl⟩
    · exact decideHeld_none _ (by rw [e.isHeld]; exact hh)
    · refine decideHeld_some (.withdrawn .retired) (hq := ?_) k.1.2
      rw [← hq]; unfold State.heldFor; rw [e.hold]
  have a : Acts h h' := decided ▸ acts_decideHeld ..
  have kept : h'.loads = s.loads ∧ h'.control.census = s.control.census := by
    rcases answered with ⟨-, rfl⟩ | ⟨q, -, rfl⟩ <;> exact ⟨e.loads, e.census⟩
  have hl' : h'.live? n = some l := by rw [live?_congr kept.1]; exact hl
  have left_eq : left = retired h' n := by
    simp only [left, gone, retired, State.leaveCensus, kept.1, kept.2, setSlot_fields]
  have done : h.retire n = told.heardInCensus n := by
    rw [retire_eq (by rw [decided]; exact hl') (isDown.mp d), decided]
    simp only [told, left_eq]
  rw [exec_retire hn]
  refine congrArg _ (manage_writes k free (t := told.heardInCensus n) ?_ ?_)
  · rw [← done]
    exact checked.trans (by rw [if_neg (by simpa using isDown.mp d), if_neg owed])
  · have same : told.mgmt = left.mgmt := by
      simp only [told]; split
      · exact (acts_drawFell _).mgmt
      · rfl
    rw [mgmt_heardInCensus, same]
    exact a.mgmt.trans e.mgmt

end Sys2Proof.TableProofs

namespace Sys2Proof.TableProofs

open Sys2Proof.Machine Sys2Proof.Laws

/-! ### The checks of a publish -/

section
variable {s : State} {src load : Byte} {n : LoadNo} {l : Live} {c : LoadConfig} {r : Runtime}

theorem targetTaken_iff (s : State) (n : LoadNo) (t : Target) :
    s.targetTaken n t = true ↔ ∃ m l, m ≠ n ∧ s.live? m = some l ∧ l.config.target = t := by
  unfold State.targetTaken
  simp only [List.any_eq_true, List.mem_finRange, true_and, Bool.and_eq_true, bne_iff_ne, Option.any_eq_true,
    beq_iff_eq]
  constructor
  · rintro ⟨m, ne, l, hl, ht⟩; exact ⟨m, l, ne, hl, ht⟩
  · rintro ⟨m, l, ne, hl, ht⟩; exact ⟨m, ne, l, hl, ht⟩

/-- A PUBLISH that is taken makes the rest of its checks, unless a save is in flight (R13). -/
theorem exec_publish (hn : load.toNat = n.val) :
    exec (.publish src load) s =
      .next (s.manage src 4 2 true (some n) fun n u => u.unlessSaving (·.publishChecked n)) := by
  simp only [exec, execPublish, loadOfByte_of hn]

/-- Checks 3 to 6 of R13, and what an accepted publish comes to, once there is a draft. -/
theorem publishChecked_draft (hd : s.loads.slots[n].draft = some c) :
    s.publishChecked n =
      if s.targetTaken n c.target then s.refuse .badArg
      else
        match s.live? n with
        | none => ((s.publishNew n c).censusCheck).done
        | some l =>
          if l.run.state = .winding ∨ l.run.state = .restoring then s.refuse .loadBusy
          else if l.config.target ≠ c.target ∧ l.run.state.isDown = false then s.refuse .loadActive
          else ((s.publishLive n l.config c l.run).censusCheck).done := by
  unfold State.publishChecked
  rw [hd] <;> rfl

theorem publishChecked_new (hd : s.loads.slots[n].draft = some c) (free : s.targetTaken n c.target = false)
    (hl : s.live? n = none) : s.publishChecked n = ((s.publishNew n c).censusCheck).done := by
  rw [publishChecked_draft hd, free, hl] <;> rfl

theorem publishChecked_live (hd : s.loads.slots[n].draft = some c) (free : s.targetTaken n c.target = false)
    (hl : s.live? n = some l) :
    s.publishChecked n =
      if l.run.state = .winding ∨ l.run.state = .restoring then s.refuse .loadBusy
      else if l.config.target ≠ c.target ∧ l.run.state.isDown = false then s.refuse .loadActive
      else ((s.publishLive n l.config c l.run).censusCheck).done := by
  rw [publishChecked_draft hd, free, hl] <;> rfl

theorem targetTaken_heard (t : Target) : (s.heard .panel src).targetTaken n t = s.targetTaken n t := by
  simp only [State.targetTaken, live?_heard]

end

/-! ### The drafts and configurations after a publish -/

section
variable (s : State) (n m : LoadNo) (old new : LoadConfig) (r : Runtime)

theorem draft_bindTarget : (s.bindTarget n).loads.slots[m].draft = s.loads.slots[m].draft := by
  have joined (t : State) : (t.joinCensus n).loads = t.loads := by
    unfold State.joinCensus
    split <;> rfl
  unfold State.bindTarget
  split
  · rw [joined]
    exact ((untouched_changeRun s n _).trans (untouched_changeRun ..)).draft m
  · rw [(talk_reportBinding ..).loads]
    exact (untouched_changeRun s n fun _ r => { r with state := .off }).draft m
  · rfl

theorem draft_retarget : (s.retarget n old new).loads.slots[m].draft = s.loads.slots[m].draft := by
  have released (t : State) : (t.releaseTarget old.target).loads.slots[m].draft = t.loads.slots[m].draft := by
    cases old.target <;> rfl
  have bound : (((s.changeRun n fun _ r => { r with owed := none, answer := none }).releaseTarget
      old.target).bindTarget n).loads.slots[m].draft = s.loads.slots[m].draft := by
    rw [draft_bindTarget, released]
    exact (untouched_changeRun ..).draft m
  unfold State.retarget
  split
  · rfl
  · dsimp only
    split
    · exact ((untouched_drawFell _).draft m).trans bound
    · exact bound

theorem untouched_rebindRecord : Untouched s (s.rebindRecord n old new) := by
  have moved (t : State) (f : StackEntry → StackEntry) : Untouched t (t.modifyEntry n f) := { }
  unfold State.rebindRecord
  split
  · dsimp only
    split
    · exact (((untouched_changeRun s n _).trans (moved ..)).trans (untouched_talk (talk_reportDirect ..))).trans
        (untouched_blocksTake ..)
    · exact ((untouched_changeRun s n _).trans (moved ..)).trans (untouched_talk (talk_reportDirect ..))
  · exact Untouched.refl s

theorem untouched_publishUnstacks : Untouched s (s.publishUnstacks n) := by
  unfold State.publishUnstacks
  split
  · split
    · exact (untouched_leaveStack ..).trans (untouched_talk (talk_reportDirect ..))
    · exact Untouched.refl s
  · exact Untouched.refl s

theorem untouched_fieldChanges : Untouched s (s.fieldChanges n old new) := by
  have drawn : Untouched s (s.changeDraw n old new) := by
    unfold State.changeDraw
    split
    · exact untouched_drawFell s
    · exact Untouched.refl s
  have restored (t : State) : Untouched t (t.changeRestore n old new) := by
    unfold State.changeRestore
    split
    · exact untouched_publishUnstacks ..
    · exact Untouched.refl t
  refine (drawn.trans (restored _)).trans ?_
  unfold State.fieldChanges State.changeTier
  split
  · exact untouched_publishUnstacks ..
  · exact Untouched.refl _

theorem untouched_authorityChange : Untouched s (s.authorityChange n old new) := by
  unfold State.authorityChange
  split
  · unfold State.forceOff
    split
    · refine Untouched.trans (Untouched.trans (Untouched.trans ?_ (untouched_commandOff ..))
        (untouched_talk (talk_reportDirect ..))) (untouched_reportDraw ..)
      split
      case h_1 => exact untouched_leaveStack s n
      case h_2 => exact untouched_changeRun ..
      case h_7 => exact untouched_leaveStack s n
      all_goals exact Untouched.refl s
    · exact Untouched.refl s
  · split
    · exact untouched_publishUnstacks ..
    · exact Untouched.refl s

/-- A publish leaves every draft alone but the one it installs (R13). -/
theorem draft_publishLive :
    (s.publishLive n old new r).loads.slots[m].draft = (s.installDraft n new r).loads.slots[m].draft := by
  have shed (t : State) : Untouched t (t.publishShed n new) := by
    unfold State.publishShed
    split
    · exact untouched_shed ..
    · exact Untouched.refl t
  have fielded := (((untouched_rebindRecord ((s.installDraft n new r).retarget n old new) n old new).trans
    (untouched_fieldChanges _ n old new)).draft m).trans (draft_retarget ..)
  unfold State.publishLive
  dsimp only
  rw [(untouched_blocksTake ..).draft, ← fielded]
  split
  · exact ((((shed _).trans (untouched_authorityChange ..)).trans (untouched_talk (talk_raise ..))).draft m)
  · exact ((shed _).trans (untouched_authorityChange ..)).draft m

/-- A published slot holds the draft as its live copy, and no draft (R13). -/
theorem publishLive_slot : config? (s.publishLive n old new r) n = some new ∧
    (s.publishLive n old new r).loads.slots[n].draft = none := by
  constructor
  · rw [(acts_publishLive s n old new r).config]
    exact (config?_setSlot ..).trans (if_pos rfl)
  · rw [draft_publishLive]
    exact (draft_setSlot ..).trans (if_pos rfl)

theorem publishNew_slot : config? (s.publishNew n new) n = some new ∧
    (s.publishNew n new).loads.slots[n].draft = none := by
  constructor
  · rw [(acts_publishNew s n new).config]
    exact (config?_setSlot ..).trans (if_pos rfl)
  · unfold State.publishNew
    rw [draft_bindTarget]
    exact (draft_setSlot ..).trans (if_pos rfl)

end

/-- Settles O27: the checks of `State.publishChecked` in their order; what an accepted publish does beside keeps
the configurations (`Acts`) and the drafts (`Untouched`). -/
theorem publishChecksInOrder : Obligations.PublishChecksInOrder := by
  unfold Obligations.PublishChecksInOrder
  intro s src load n k hn h answers
  have e : Hearing s h := hearing_heard s .panel src
  have refused (status : Status) (free : s.mgmt.save = none) (r : h.publishChecked n = h.refuse status) :
      answers (byte status.code) := by
    show exec _ s = _
    rw [exec_publish hn]
    exact congrArg _ (manage_refuses k.1 (fun _ => k) ((unlessSaving_free _ free).trans r))
  refine ⟨fun busy => ?_, fun free hd => ?_, ?_⟩
  · show exec _ s = _
    rw [exec_publish hn]
    exact congrArg _ (manage_refuses (status := .busy) k.1 (fun _ => k) (unlessSaving_busy _ busy))
  · refine refused .notFound free ?_
    unfold State.publishChecked
    rw [slot_heard, hd]
  intro c free hd taken busy active
  have hd' : h.loads.slots[n].draft = some c := by rw [slot_heard]; exact hd
  have taken_iff : h.targetTaken n c.target = true ↔ taken := by rw [targetTaken_heard]; exact targetTaken_iff ..
  have untaken (x : ¬ taken) : h.targetTaken n c.target = false := by simpa using (not_congr taken_iff).mpr x
  have accepted {t : State} (r : h.publishChecked n = t.done) (config : config? t n = some c)
      (draft : t.loads.slots[n].draft = none) : ∃ t, exec (.publish src load) s = .next t ∧
        (t.live? n).map (·.config) = some c ∧ t.loads.slots[n].draft = none := by
    refine ⟨t.answerManage src 4 { status := .ok }, ?_, ?_, ?_⟩
    · rw [exec_publish hn, manage_takes _ k.1 fun _ => k, unlessSaving_free _ free, r]; rfl
    · exact ((talk_answerManage t src 4 { status := .ok }).acts.config n).trans config
    · rw [(talk_answerManage ..).loads]; exact draft
  cases hl : s.live? n with
  | none =>
    have state : s.state? n = none := by unfold State.state?; rw [hl]; rfl
    refine ⟨fun x => ?_, fun _ b => ?_, fun _ _ a => ?_, fun x _ _ => ?_⟩
    · exact refused .badArg free (by rw [publishChecked_draft hd', if_pos (taken_iff.mpr x)])
    · simp [busy, state] at b
    · obtain ⟨l, hl', -⟩ := a
      rw [hl] at hl'; cases hl'
    · refine accepted (publishChecked_new hd' (untaken x) (by rw [e.live, hl])) ?_ ?_ <;> rw [censusCheck_eq]
      · exact (config?_censusEnds ..).trans (publishNew_slot ..).1
      · exact (draft_censusEnds ..).trans (publishNew_slot ..).2
  | some l =>
    have checked (x : ¬ taken) := publishChecked_live hd' (untaken x) (by rw [e.live, hl])
    have busy_iff : busy ↔ l.run.state = .winding ∨ l.run.state = .restoring := by
      simp [busy, State.state?, hl]
    have active_iff : active ↔ l.config.target ≠ c.target ∧ l.run.state.isDown = false := by
      have down := not_congr (isDown_iff l.run.state)
      simp only [not_or, Bool.not_eq_true] at down
      simp only [active, hl, Option.some.injEq, exists_eq_left', down]
    refine ⟨fun x => ?_, fun x b => ?_, fun x b a => ?_, fun x b a => ?_⟩
    · exact refused .badArg free (by rw [publishChecked_draft hd', if_pos (taken_iff.mpr x)])
    · exact refused .loadBusy free ((checked x).trans (if_pos (busy_iff.mp b)))
    · exact refused .loadActive free
        ((checked x).trans ((if_neg ((not_congr busy_iff).mp b)).trans (if_pos (active_iff.mp a))))
    · refine accepted ((checked x).trans ((if_neg ((not_congr busy_iff).mp b)).trans (if_neg ((not_congr active_iff).mp a)))) ?_ ?_
        <;> rw [censusCheck_eq]
      · exact (config?_censusEnds ..).trans (publishLive_slot ..).1
      · exact (draft_censusEnds ..).trans (publishLive_slot ..).2

end Sys2Proof.TableProofs

namespace Sys2Proof.TableProofs

open Sys2Proof.Machine Sys2Proof.Laws

/-! ### A new target -/

section
variable {s u : State} {n : LoadNo} {l : Live} {c : LoadConfig} {r q : Runtime}

/-- The flag byte of a governed-state note (R183). -/
theorem noteFlags (held overdue : Bool) :
    byte (bit held + 2 * bit overdue) = (if held then 1 else 0) + if overdue then 2 else 0 := by
  cases held <;> cases overdue <;> rfl

theorem live?_installDraft : (s.installDraft n c r).live? n = some { config := c, run := r } := by
  unfold State.installDraft
  rw [live?_setSlot, if_pos rfl]

theorem withRun_installDraft :
    (s.installDraft n c r).withRun n { config := c, run := r } q = s.installDraft n c q := by
  unfold State.installDraft State.withRun State.setSlot
  simp

/-- In a start-up census the load joins the set, once; a census of a warm restart goes on (R161, R163). -/
theorem joinCensus_eq (s : State) (n : LoadNo) : s.joinCensus n = { s with control := { s.control with
    census := if s.control.mode = .starting then
      s.control.census.map fun asked => if n ∈ asked then asked else asked ++ [n]
    else s.control.census } } := by
  have once : joinSet n = fun asked => if n ∈ asked then asked else asked ++ [n] := by
    funext asked; simp [joinSet]
  unfold State.joinCensus
  rw [once]
  split <;> rfl

/-- A module target: UNKNOWN, and asked (R14, R18). -/
theorem bindTarget_module (hl : u.live? n = some l) (ht : ∃ node output, l.config.target = .module node output) :
    u.bindTarget n =
      (u.withRun n l { l.run with state := .unknown, owed := some (l.run.owed.getD .query) }).joinCensus n := by
  obtain ⟨node, output, ht⟩ := ht
  have target : u.target? n = some (.module node output) := by unfold State.target?; rw [hl, ← ht]; rfl
  unfold State.bindTarget State.oweQuery
  rw [target]
  dsimp only
  rw [changeRun_live _ hl, changeRun_live _ (live?_withRun ..), withRun_withRun]

/-- A direct target: OFF, the output driven off, the load out of a census, and the output's report (R14, R18, R44). -/
theorem bindTarget_direct (hl : u.live? n = some l) {d : Fin 4} (ht : l.config.target = .direct d) :
    u.bindTarget n = (((u.withRun n l { l.run with state := .off }).setOutput d false).leaveCensus n).joinReply
      { kind := .state, src := u.own, dst := 0, body := [byte l.config.homeChannel, 2, 0, 3,
        (if u.isHeld n then 1 else 0) + if l.run.overdue then 2 else 0] } := by
  have target : u.target? n = some (.direct d) := by unfold State.target?; rw [hl, ← ht]; rfl
  unfold State.bindTarget
  rw [target]
  dsimp only
  rw [changeRun_live _ hl]
  have live : (((u.withRun n l { l.run with state := .off }).setOutput d false).leaveCensus n).live? n =
      some { l with run := { l.run with state := .off } } := live?_withRun ..
  have off : (((u.withRun n l { l.run with state := .off }).setOutput d false).leaveCensus n).loads.outputs[d] =
      false := by simp
  unfold State.reportBinding
  rw [live]
  simp only [ht, State.generatedReport, off, Bool.false_eq_true, if_false, State.reportFrame, noteFlags]
  rfl

theorem joinReply_room {f : Frame} (room : s.ports.replies.length < 8) : s.joinReply f = s.pushReply f := if_pos room

/-! ### A first publish -/

/-- A first publish of a module load: UNKNOWN with QUERY owed, and asked in a start-up census (R14, R161). -/
theorem publishNew_module (ht : ∃ node output, c.target = .module node output) :
    s.publishNew n c = (s.installDraft n c { state := .unknown, owed := some .query }).joinCensus n := by
  show (s.installDraft n c { state := .off }).bindTarget n = _
  rw [bindTarget_module live?_installDraft ht, withRun_installDraft]
  rfl

/-- A load that is UNKNOWN keeps a start-up census going, as a set that is not empty keeps one of a warm restart
(R161, R163). -/
theorem censusCheck_goesOn (h : ∀ asked, s.control.census = some asked →
    s.control.mode = .starting ∧ s.state? n = some .unknown ∨ s.control.mode ≠ .starting ∧ asked ≠ []) :
    s.censusCheck = s := by
  unfold State.censusCheck
  cases e : s.control.census with
  | none => rfl
  | some asked =>
    rcases h asked e with ⟨m, unknown⟩ | ⟨m, ne⟩
    · have some : s.someUnknown = true := by
        obtain ⟨l, hl, st⟩ := Option.map_eq_some_iff.mp unknown
        exact List.any_eq_true.mpr ⟨n, List.mem_finRange _, by simp [hl, st]⟩
      simp only [m, if_true, some]
    · simp only [if_neg m, List.isEmpty_iff, if_neg ne]

end

/-- Settles O28: the two bindings of `State.bindTarget`, and then the end of a census. -/
theorem publishOfANewLoad : Obligations.PublishOfANewLoad := by
  unfold Obligations.PublishOfANewLoad
  intro s src load n c k hn free hl hd unique h made noStartUp
  have e : Hearing s h := hearing_heard s .panel src
  have hd' : h.loads.slots[n].draft = some c := by rw [slot_heard]; exact hd
  have untaken : h.targetTaken n c.target = false := by
    rw [targetTaken_heard, Bool.eq_false_iff, Ne, targetTaken_iff]
    rintro ⟨m, l, -, hm, ht⟩
    exact unique m l hm ht
  have checked : h.publishChecked n = ((h.publishNew n c).censusCheck).done :=
    publishChecked_new hd' untaken (by rw [e.live, hl])
  have published {t : State} (ht : (h.publishNew n c).censusCheck = t) (own : t.mgmt = h.mgmt) :
      exec (.publish src load) s = .next (t.joinReply { kind := .reply, src := s.own, dst := src, body := [4, 0] }) := by
    rw [exec_publish hn]
    exact congrArg _ (manage_writes k free (checked.trans (by rw [ht])) (own.trans e.mgmt))
  have answered {t : State} (ht : (h.publishNew n c).censusCheck = t) (own : t.mgmt = h.mgmt)
      (ports : t.ports = h.ports) : exec (.publish src load) s = .next (t.withReply src [4, 0]) := by
    rw [published ht own, joinReply_room (by rw [ports]; exact k.1.2), ← e.own, ← own_of own]; rfl
  constructor
  · intro node out ht asked
    refine ⟨fun quiet => ?_, fun set hs m => ?_⟩
    · have new : h.publishNew n c = asked := by
        rw [publishNew_module ⟨_, _, ht⟩, joinCensus_eq]
        have same : (if h.control.mode = .starting then
            h.control.census.map fun a => if n ∈ a then a else a ++ [n] else h.control.census) = h.control.census := by
          rw [e.census, e.mode]
          cases hs : s.control.census with
          | none => exact ite_self _
          | some a => exact if_neg (quiet a hs).1
        exact congrArg (fun census => ({ asked with control := { h.control with census := census } } : State)) same
      have goesOn : asked.censusCheck = asked := censusCheck_goesOn (n := n) fun a ha => .inr (by
        have ha : s.control.census = some a := e.census ▸ ha
        exact ⟨e.mode ▸ (quiet a ha).1, (quiet a ha).2⟩)
      exact answered (by rw [new, goesOn]) rfl rfl
    · have new : h.publishNew n c = { asked with control := { h.control with
          census := some (if n ∈ set then set else set ++ [n]) } } := by
        rw [publishNew_module ⟨_, _, ht⟩, joinCensus_eq]
        have joined : (if h.control.mode = .starting then
            h.control.census.map fun a => if n ∈ a then a else a ++ [n] else h.control.census) =
            some (if n ∈ set then set else set ++ [n]) := by
          rw [e.census, e.mode, if_pos m, hs]; rfl
        exact congrArg (fun census => ({ asked with control := { h.control with census := census } } : State)) joined
      refine answered (t := { asked with control := { h.control with census := _ } }) ?_ rfl rfl
      rw [new]
      refine censusCheck_goesOn (n := n) fun a _ => .inl ⟨e.mode.trans m, ?_⟩
      exact congrArg _ live?_installDraft
  · intro d ht room off silent bound
    have new : h.publishNew n c = bound.leaveCensus n := by
      show (h.installDraft n c { state := .off }).bindTarget n = _
      have room' : (((h.installDraft n c { state := .off }).setOutput d false).leaveCensus n).ports.replies.length < 8 :=
        room
      rw [bindTarget_direct live?_installDraft ht, withRun_installDraft, joinReply_room room']
      have held : (h.installDraft n c { state := .off }).isHeld n = s.isHeld n := e.isHeld n
      have flags : ((if s.isHeld n then 1 else 0) + if false = true then 2 else 0 : Byte) =
          if s.isHeld n then 1 else 0 := by cases s.isHeld n <;> rfl
      simp only [held, flags]
      rfl
    refine published ?_ (mgmt_heardInCensus ..)
    rw [new]
    exact leaveCensus_censusCheck ..

end Sys2Proof.TableProofs

namespace Sys2Proof.TableProofs

open Sys2Proof.Machine Sys2Proof.Laws

/-! ### A publish of a live load, stage by stage -/

/-- The state once R18, R15 and R16 have acted. -/
def fielded (s : State) (n : LoadNo) (old new : LoadConfig) : State :=
  ((s.retarget n old new).rebindRecord n old new).fieldChanges n old new

/-- What the shed of R19 and R17 then make of it, with their ENFORCED. -/
def acted (s : State) (n : LoadNo) (old new : LoadConfig) : State :=
  let t := (s.publishShed n new).authorityChange n old new
  if s.cuttableOn n || forces old new then t.raise .enforced else t

theorem publishLive_eq (s : State) (n : LoadNo) (old new : LoadConfig) (r : Runtime) :
    s.publishLive n old new r =
      (acted (fielded (s.installDraft n new r) n old new) n old new).blocksTake
        ((acted (fielded (s.installDraft n new r) n old new) n old new).stacked n)
        ((acted (fielded (s.installDraft n new r) n old new) n old new).isHeld n) := rfl

section
variable {s u : State} {n : LoadNo} {l : Live} {c old : LoadConfig} {q r : Runtime}

/-! The stack, the sequencer and the queue, as the events find them -/

theorem settled_congr (hold : u.hold = s.hold) (stack : s.ladder.stack = [] → u.ladder.stack = [])
    (seq : u.ladder.seq = s.ladder.seq) (h : s.Settled) : u.Settled := by
  obtain ⟨hh, hs⟩ := h
  exact ⟨hold.trans hh, hs.imp stack (by rw [seq]; exact id)⟩

theorem stacked_congr (h : u.ladder.stack = s.ladder.stack) (n : LoadNo) : u.stacked n = s.stacked n := by
  unfold State.stacked; rw [h]

theorem isHeld_congr (h : u.hold = s.hold) (n : LoadNo) : u.isHeld n = s.isHeld n := by
  unfold State.isHeld; rw [h]

theorem stacked_modifyEntry (s : State) (n m : LoadNo) {f : StackEntry → StackEntry} (hf : ∀ e, (f e).load = e.load) :
    (s.modifyEntry n f).stacked m = s.stacked m := by
  unfold State.stacked State.modifyEntry
  rw [List.any_map]
  congr 1
  funext e
  simp only [Function.comp]
  split <;> simp [hf]

theorem stacked_unstack (s : State) (n : LoadNo) : (s.unstack n).stacked n = false := by
  simp [State.stacked]

/-- A load outside the stack has no entry to change. -/
theorem modifyEntry_out (f : StackEntry → StackEntry) (h : s.stacked n = false) : s.modifyEntry n f = s := by
  have same : s.ladder.stack.map (fun e => if e.load = n then f e else e) = s.ladder.stack := by
    refine (List.map_congr_left fun e he => if_neg fun q => ?_).trans (List.map_id _)
    simp only [State.stacked, List.any_eq_false, beq_iff_eq] at h
    exact h e he q
  unfold State.modifyEntry
  rw [same]

/-! R44: the report of a direct load -/

theorem reportDirect_quiet (before : Runtime) (hl : s.live? n = some l)
    (quiet : (∃ node output, l.config.target = .module node output) ∨
      l.run.state = before.state ∧ l.run.level = before.level) : s.reportDirect n before = s := by
  unfold State.reportDirect
  rw [hl]
  cases ht : l.config.target with
  | module node output => simp only [ht]
  | direct d =>
    obtain ⟨st, lv⟩ := quiet.resolve_left (by simp [ht])
    simp only [ht]
    exact if_neg (by simp [st, lv])

theorem generatedReport_eq (s : State) (n : LoadNo) (l : Live) (d : Fin 4) :
    s.generatedReport n l d = { kind := .state, src := s.own, dst := 0, body := [byte l.config.homeChannel,
      if s.loads.outputs[d] then 1 else 2,
      if s.loads.outputs[d] ∧ l.run.state = .on then byte (l.run.level.getD 0) else 0, byte l.run.state.code,
      (if s.isHeld n then 1 else 0) + if l.run.overdue then 2 else 0] } := by
  unfold State.generatedReport State.reportFrame
  rw [noteFlags]
  by_cases on : s.loads.outputs[d] = true <;> by_cases st : l.run.state = .on <;> simp [on, st, byte]

theorem reportDirect_direct (before : Runtime) (hl : s.live? n = some l) {d : Fin 4} (ht : l.config.target = .direct d) :
    s.reportDirect n before =
      if l.run.state ≠ before.state ∨ l.run.level ≠ before.level then s.joinReply (s.generatedReport n l d) else s := by
  unfold State.reportDirect
  rw [hl]
  simp only [ht]

/-! R18: another target -/

theorem releaseTarget_withRun (s : State) (t : Target) (n : LoadNo) (l : Live) (r : Runtime) :
    (s.withRun n l r).releaseTarget t = (s.releaseTarget t).withRun n l r := by cases t <;> rfl

theorem retarget_same (h : old.target = c.target) : u.retarget n old c = u := if_pos h

theorem retarget_module (ne : old.target ≠ c.target) (hl : u.live? n = some { config := c, run := q })
    (ht : ∃ node output, c.target = .module node output) :
    u.retarget n old c = ((u.releaseTarget old.target).withRun n { config := c, run := q }
      { q with state := .unknown, owed := some .query, answer := none }).joinCensus n := by
  have stays (st : Option LoadState) : retargetFalls old c st = false := by
    obtain ⟨_, _, ht⟩ := ht
    simp [retargetFalls, ht]
  unfold State.retarget
  rw [if_neg ne, stays]
  rw [changeRun_live _ hl, releaseTarget_withRun, bindTarget_module (live?_withRun ..) ht, withRun_withRun]
  rfl

theorem retarget_direct (ne : old.target ≠ c.target) (hl : u.live? n = some { config := c, run := q }) {d : Fin 4}
    (ht : c.target = .direct d) :
    u.retarget n old c =
      let t := ((((u.releaseTarget old.target).withRun n { config := c, run := q }
        { q with state := .off, owed := none, answer := none }).setOutput d false).leaveCensus n).joinReply
          { kind := .state, src := u.own, dst := 0, body := [byte c.homeChannel, 2, 0, 3,
            (if u.isHeld n then 1 else 0) + if q.overdue then 2 else 0] }
      if q.state = .unknown ∧ old.draw ≠ 0 then t.drawFell else t := by
  have falls : retargetFalls old c (u.state? n) = true ↔ q.state = .unknown ∧ old.draw ≠ 0 := by
    simp [retargetFalls, State.state?, hl, ht, Nat.pos_iff_ne_zero]
  unfold State.retarget
  rw [if_neg ne]
  simp only [falls]
  rw [changeRun_live _ hl, releaseTarget_withRun, bindTarget_direct (live?_withRun ..) ht, withRun_withRun]
  cases old.target <;> rfl

/-! R15: the timers re-bounded, and the level -/

theorem rebound_eq (q : Runtime) (c : LoadConfig) : q.rebound c = { q with
    minOn := rebound q.minOn c.minOn
    lockout := rebound q.lockout c.minOff
    state := if q.state = .lockout ∧ rebound q.lockout c.minOff = none then .off else q.state } := by
  simp only [Runtime.rebound, Option.isNone_iff_eq_none]

/-- The level, the prior level and an owed ON of a record after R15, by the two dimmable fields (log entry 11). -/
theorem followDimmable_eq (old c : LoadConfig) (r : Runtime) : r.followDimmable old c =
    if old.dimmable = true ∧ c.dimmable = false then
      { r with level := none, prior := none, owed := r.owed.map (Owed.relevel none) }
    else if old.dimmable = false ∧ c.dimmable = true then
      if r.state = .on then { r with level := some 100, owed := r.owed.map (Owed.relevel (some 100)) }
      else if r.state = .shed ∨ r.state = .winding then { r with level := some 100, prior := some 100 }
      else r
    else r := by
  simp only [Runtime.followDimmable, Runtime.followLevel, Bool.and_eq_true, Bool.not_eq_true']

theorem leaveStack_eq (q : Runtime) : q.leaveStack = { q with
    state := if q.lockout = none then .off else .lockout
    grace := none, level := none, prior := none, overdue := false, userOff := false } := by
  unfold Runtime.leaveStack
  cases q.lockout <;> rfl

/-- The entry of a load after R15, by the two dimmable fields. -/
theorem modifyEntry_followDimmable (s : State) (n : LoadNo) (old c : LoadConfig) :
    s.modifyEntry n (StackEntry.followDimmable old c) =
      if old.dimmable = true ∧ c.dimmable = false then s.modifyEntry n fun e => { e with prior := none }
      else if old.dimmable = false ∧ c.dimmable = true then s.modifyEntry n fun e => { e with prior := some 100 }
      else s := by
  have same := modifyEntry_id s n
  show (s.modifyEntry n fun e => e.followDimmable old c) = _
  cases ho : old.dimmable <;> cases hc : c.dimmable <;> simp [StackEntry.followDimmable, ho, hc, same]

theorem relevel_noOn {o : Option Owed} (h : ∀ lv since, o ≠ some (.on lv since)) (level : Option Nat) :
    o.map (Owed.relevel level) = o := by
  rcases o with _ | o
  · rfl
  · cases o with
    | on lv since => exact absurd rfl (h lv since)
    | _ => rfl

/-- Re-bounding takes a LOCKOUT load to OFF at most, so that it counts no load that did not count (R15, R23). -/
theorem rebound_counted (h : (q.rebound c).state.counted = true) : q.state.counted = true := by
  rcases rebound_state c q with e | ⟨-, e⟩ <;> rw [e] at h
  · exact h
  · cases h

theorem rebound_keeps (h : q.state ≠ .lockout) : (q.rebound c).state = q.state :=
  (rebound_state c q).resolve_right fun x => h x.1

theorem leaveStack_state (q : Runtime) : q.leaveStack.state = .off ∨ q.leaveStack.state = .lockout := by
  unfold Runtime.leaveStack
  dsimp only
  split
  · exact .inr rfl
  · exact .inl rfl

/-- The record and the entry of a load after R15. -/
def rebounded (u : State) (n : LoadNo) (old c : LoadConfig) (q : Runtime) : State :=
  (u.withRun n { config := c, run := q } ((q.rebound c).followDimmable old c)).modifyEntry n
    (StackEntry.followDimmable old c)

theorem live?_rebounded (u : State) (n : LoadNo) (old c : LoadConfig) (q : Runtime) :
    (rebounded u n old c q).live? n = some { config := c, run := (q.rebound c).followDimmable old c } :=
  live?_withRun ..

theorem stacked_rebounded (u : State) (n : LoadNo) (old c : LoadConfig) (q : Runtime) :
    (rebounded u n old c q).stacked n = u.stacked n :=
  stacked_modifyEntry _ _ _ fun e => followDimmable_load old c e

theorem settled_rebounded (n : LoadNo) (old c : LoadConfig) (q : Runtime) (h : u.Settled) :
    (rebounded u n old c q).Settled :=
  settled_congr (s := u) rfl (fun e => congrArg (List.map _) e) rfl h

theorem rebounded_same (h : c.dimmable = old.dimmable) :
    rebounded u n old c q = u.withRun n { config := c, run := q } (q.rebound c) := by
  have entries : StackEntry.followDimmable old c = fun e => e := funext (entry_followDimmable_same h)
  unfold rebounded
  rw [followDimmable_same h, entries, modifyEntry_id]

theorem rebounded_out (h : u.stacked n = false) : rebounded u n old c q =
    u.withRun n { config := c, run := q } ((q.rebound c).followDimmable old c) :=
  modifyEntry_out _ h

theorem rebindRecord_eq (hl : u.live? n = some { config := c, run := q }) :
    u.rebindRecord n old c =
      if q.lockout.isSome ∧ c.minOff = 0 then ((rebounded u n old c q).reportDirect n q).reportLockout n
      else (rebounded u n old c q).reportDirect n q := by
  unfold State.rebindRecord
  rw [hl]
  dsimp only
  rw [changeRun_live _ hl]
  rfl

/-- No lockout that R15 ends is an event for a block. -/
def NoLockoutEvent (u : State) (n : LoadNo) (c : LoadConfig) (q : Runtime) : Prop :=
  u.Settled ∨ q.lockout = none ∨ c.minOff ≠ 0 ∨ u.stacked n = false ∧ u.isHeld n = false

theorem rebindRecord_calm (hl : u.live? n = some { config := c, run := q }) (calm : NoLockoutEvent u n c q) :
    u.rebindRecord n old c = (rebounded u n old c q).reportDirect n q := by
  have told := talk_reportDirect (rebounded u n old c q) n q
  rw [rebindRecord_eq hl]
  split
  · rename_i ends
    rcases calm with calm | calm | calm | calm
    · refine blocksTake_settled _ _ (settled_congr told.hold ?_ ?_ (settled_rebounded n old c q calm)) <;>
        rw [told.ladder]
      exact id
    · simp [calm] at ends
    · exact absurd ends.2 calm
    · refine (blocksTake_load _ n).1 ?_ ?_
      · rw [stacked_congr (congrArg _ told.ladder) n, stacked_rebounded]; exact calm.1
      · rw [isHeld_congr told.hold]; exact calm.2
  · rfl

/-! R16: the nominal draw, the restore option and the tier -/

theorem changeDraw_kept (hl : u.live? n = some l) (h : u.Settled ∨ (l.run.state.counted = true → old.draw ≤ c.draw)) :
    u.changeDraw n old c = u := by
  rcases h with h | h
  · exact changeDraw_of_settled h
  · unfold State.changeDraw State.state?
    rw [hl]
    refine if_neg fun falls => ?_
    simp only [Option.map_some, Option.any_some, Bool.and_eq_true, decide_eq_true_eq] at falls
    exact absurd (h falls.1) (by omega)

/-- R16 leaves the load in the stack, or has nothing to take out of it. -/
def KeepsPlace (u : State) (n : LoadNo) (old c : LoadConfig) : Prop :=
  u.stacked n = false ∨ (old.restoreAuto = true → c.restoreAuto = true) ∧ c.tier ≠ 0

/-- R16 comes to the decrease, if it is one, where the load keeps its place. -/
theorem fieldChanges_kept {t : State} (draw : u.changeDraw n old c = t) (place : KeepsPlace t n old c) :
    u.fieldChanges n old c = t := by
  have restore : t.changeRestore n old c = t :=
    changeRestore_of_kept (place.imp_right fun h => by rintro ⟨a, b⟩; simp [h.1 a] at b)
  unfold State.fieldChanges
  rw [draw, restore]
  exact changeTier_of_kept (place.imp_right And.right)

theorem publishUnstacks_eq (hl : u.live? n = some { config := c, run := q }) :
    u.publishUnstacks n = if u.stacked n = true then
      ((u.unstack n).withRun n { config := c, run := q } q.leaveStack).reportDirect n q else u := by
  have out : u.leaveStack n = (u.unstack n).withRun n { config := c, run := q } q.leaveStack :=
    changeRun_live _ (show (u.unstack n).live? n = _ from hl)
  unfold State.publishUnstacks
  rw [hl]
  dsimp only
  rw [out]

theorem changeDraw_of_le (h : old.draw ≤ c.draw) : u.changeDraw n old c = u := by
  refine if_neg fun falls => ?_
  simp only [Bool.and_eq_true, decide_eq_true_eq] at falls
  omega

theorem changeDraw_eq (hl : u.live? n = some { config := c, run := q }) :
    u.changeDraw n old c = if c.draw < old.draw ∧ (q.state = .on ∨ q.state = .restoring ∨
      q.state = .winding ∨ q.state = .unknown) then u.drawFell else u := by
  have counted : q.state.counted = true ↔
      q.state = .on ∨ q.state = .restoring ∨ q.state = .winding ∨ q.state = .unknown := by
    cases q.state <;> simp [LoadState.counted]
  unfold State.changeDraw State.state?
  rw [hl]
  simp only [Option.map_some, Option.any_some, Bool.and_eq_true, decide_eq_true_eq, counted, and_comm]

theorem fieldChanges_unstacks (hl : u.live? n = some { config := c, run := q })
    (ht : ∃ node output, c.target = .module node output) (draw : u.changeDraw n old c = u)
    (hs : u.stacked n = true) (leaves : (old.restoreAuto = true ∧ c.restoreAuto = false) ∨ c.tier = 0) :
    u.fieldChanges n old c = (u.unstack n).withRun n { config := c, run := q } q.leaveStack := by
  have out := publishUnstacks_module hl ht hs
  unfold State.fieldChanges
  rw [draw]
  by_cases restore : old.restoreAuto = true ∧ c.restoreAuto = false
  · have first : u.changeRestore n old c = (u.unstack n).withRun n { config := c, run := q } q.leaveStack := by
      rw [← out]; exact if_pos (by simp [restore])
    rw [first]
    exact changeTier_of_kept (.inl (stacked_unstack u n))
  · rw [changeRestore_of_kept (.inr restore), ← out]
    exact if_pos (leaves.resolve_left restore)

/-! R17 and R19: the shed, the authority and ENFORCED -/

theorem cuttableOn_governed (hl : u.live? n = some { config := c, run := q }) (h : c.authority ≠ .governed) :
    u.cuttableOn n = false := by
  rw [Bool.eq_false_iff, Ne, cuttableOn_iff hl, cuttable_iff]
  rintro ⟨-, ⟨⟨a, -⟩, -⟩, -⟩
  exact h a

theorem cuttableOn_off (hl : u.live? n = some l) (h : l.run.state ≠ .on) : u.cuttableOn n = false := by
  rw [Bool.eq_false_iff, Ne, cuttableOn_iff hl]
  exact fun x => h x.1

/-- Without a change of authority the shed is all (R16, R19). -/
theorem acted_stays (h : c.authority = old.authority) :
    acted u n old c = if u.cuttableOn n then (u.shed (u.shedCause c) n).raise .enforced else u := by
  have unforced : forces old c = false := by
    rw [Bool.eq_false_iff, Ne, forces_iff, h]
    exact fun x => x.1 x.2
  unfold acted State.publishShed
  simp only [authorityChange_of_same h, unforced, Bool.or_false]
  split <;> simp only [*]

theorem acted_kept (h : c.authority = old.authority) (uncut : u.cuttableOn n = false) : acted u n old c = u := by
  rw [acted_stays h, uncut, if_neg Bool.false_ne_true]

theorem authorityChange_unforced (h : forces old c = false) (kept : ¬ (old.authority = .governed ∧ c.authority = .pass)) :
    u.authorityChange n old c = u := by
  unfold State.authorityChange
  rw [h, if_neg Bool.false_ne_true, if_neg kept]

/-- A cuttable load is GOVERNED, so that R17 has nothing to do behind its shed. -/
theorem acted_shed (governed : c.authority = .governed) (cut : u.cuttableOn n = true) :
    acted u n old c = (u.shed (u.shedCause c) n).raise .enforced := by
  have unforced : forces old c = false := by
    rw [Bool.eq_false_iff, Ne, forces_iff, governed]
    exact fun x => nomatch x.2
  unfold acted State.publishShed
  simp only [cut, if_true, Bool.true_or, authorityChange_unforced unforced (by simp [governed])]

theorem acted_forced (hl : u.live? n = some { config := c, run := q }) (forced : forces old c = true) :
    acted u n old c = (u.forceOff n).raise .enforced := by
  have authority : c.authority ≠ .governed := by rw [(forces_iff.mp forced).2]; exact nofun
  unfold acted State.authorityChange
  simp only [publishShed_of_not (cuttableOn_governed hl authority), forced, Bool.or_true, if_true]

theorem acted_pass (uncut : u.cuttableOn n = false) (was : old.authority = .governed) (pass : c.authority = .pass) :
    acted u n old c = u.publishUnstacks n := by
  have unforced : forces old c = false := by
    rw [Bool.eq_false_iff, Ne, forces_iff, pass]
    exact fun x => nomatch x.2
  unfold acted State.authorityChange
  simp only [publishShed_of_not uncut, uncut, unforced, was, pass, Bool.or_false, Bool.false_eq_true, if_false,
    and_self, if_true]

/-- The record of a load that R17 forces off, its owed OFF aside. -/
def forcedRun (c : LoadConfig) (q : Runtime) : Runtime :=
  if q.state = .on then q.nowOff c
  else if q.state = .shed ∨ q.state = .winding then q.leaveStack else q

/-- The state of a load that R17 forces off, before its OFF: out of the stack, if it stood there. -/
def forcedOut (u : State) (n : LoadNo) (q : Runtime) : State :=
  if q.state = .shed ∨ q.state = .winding then u.unstack n else u

theorem draw_commandOff (hl : u.live? n = some l) : (u.commandOff n).draw = u.draw := by
  cases ht : l.config.target with
  | module node output =>
    rw [commandOff_module hl ht]
    exact Nat.add_right_cancel (draw_withRun hl { l.run with owed := some .off })
  | direct d => rw [commandOff_direct hl ht]; rfl

/-- A load that R17 forces off is no longer counted in committed draw if it was ON or WINDING (R23, R25). -/
theorem forcedRun_draw (hl : u.live? n = some { config := c, run := q }) :
    (u.withRun n { config := c, run := q } (forcedRun c q)).draw < u.draw ↔
      c.draw ≠ 0 ∧ (q.state = .on ∨ q.state = .winding) := by
  have sum := draw_withRun hl (forcedRun c q)
  have off : (q.nowOff c).state.counted = false ∧ q.leaveStack.state.counted = false := by
    unfold Runtime.nowOff Runtime.leaveStack
    constructor <;> dsimp only <;> split <;> rfl
  have counted : (forcedRun c q).state.counted =
      (q.state.counted && !decide (q.state = .on ∨ q.state = .winding)) := by
    unfold forcedRun
    cases st : q.state <;> simp [st, off] <;> rfl
  rw [counted] at sum
  cases st : q.state <;> simp [st, LoadState.counted] at sum ⊢ <;> omega

/-- R17 on a load that becomes FORCED_OFF: its record, its OFF, its report, and the decrease of an ON or WINDING
load with a nominal draw (R17, R25). -/
theorem forceOff_eq (hl : u.live? n = some { config := c, run := q }) :
    u.forceOff n =
      let t := ((((forcedOut u n q).withRun n { config := c, run := q } (forcedRun c q)).commandOff n).reportDirect n q)
      if c.draw ≠ 0 ∧ (q.state = .on ∨ q.state = .winding) then t.drawFell else t := by
  have live : (forcedOut u n q).live? n = some { config := c, run := q } := by
    unfold forcedOut; split <;> exact hl
  have falls : ((((forcedOut u n q).withRun n { config := c, run := q } (forcedRun c q)).commandOff n).reportDirect
      n q).draw < u.draw ↔ c.draw ≠ 0 ∧ (q.state = .on ∨ q.state = .winding) := by
    have same : (forcedOut u n q).draw = u.draw := by unfold forcedOut; split <;> rfl
    rw [draw_congr (talk_reportDirect ..).loads, draw_commandOff (live?_withRun ..), ← same]
    exact forcedRun_draw live
  unfold State.forceOff
  rw [hl]
  refine (congrArg (fun t => ((t.commandOff n).reportDirect n q).reportDraw u)
    (?_ : _ = (forcedOut u n q).withRun n { config := c, run := q } (forcedRun c q))).trans ?_
  · have leaves : u.leaveStack n = (u.unstack n).withRun n { config := c, run := q } q.leaveStack :=
      changeRun_live _ (show (u.unstack n).live? n = _ from hl)
    have off : u.changeRun n Runtime.goOff = u.withRun n { config := c, run := q } (q.nowOff c) := changeRun_live _ hl
    have same : u.withRun n { config := c, run := q } q = u := withRun_self hl
    unfold forcedRun forcedOut
    cases q.state <;> simp [leaves, same, off]
  · unfold State.reportDraw
    simp only [falls]

theorem forceOff_module (hl : u.live? n = some { config := c, run := q })
    (ht : ∃ node output, c.target = .module node output) :
    u.forceOff n =
      let t := (forcedOut u n q).withRun n { config := c, run := q } { forcedRun c q with owed := some .off }
      if c.draw ≠ 0 ∧ (q.state = .on ∨ q.state = .winding) then t.drawFell else t := by
  obtain ⟨node, output, ht⟩ := ht
  rw [forceOff_eq hl]
  dsimp only
  rw [commandOff_module (live?_withRun ..) ht, withRun_withRun, reportDirect_module q (live?_withRun ..) ht]

/-! The stages that find nothing but the record to change -/

/-- Where no event comes in between and the load keeps its place, R15 and R16 change its record and its entry. -/
theorem fields_kept (hl : u.live? n = some { config := c, run := q })
    (quiet : (∃ node output, c.target = .module node output) ∨
      ((q.rebound c).followDimmable old c).state = q.state ∧ ((q.rebound c).followDimmable old c).level = q.level)
    (calm : NoLockoutEvent u n c q) (draw : u.Settled ∨ (q.state.counted = true → old.draw ≤ c.draw))
    (place : KeepsPlace u n old c) : (u.rebindRecord n old c).fieldChanges n old c = rebounded u n old c q := by
  have live := live?_rebounded u n old c q
  have counted (h : ((q.rebound c).followDimmable old c).state.counted = true) : q.state.counted = true :=
    rebound_counted (c := c) (followDimmable_state old c _ ▸ h)
  rw [rebindRecord_calm hl calm, reportDirect_quiet q live quiet]
  refine fieldChanges_kept (changeDraw_kept live (draw.imp (settled_rebounded n old c q) fun h x => h (counted x))) ?_
  unfold KeepsPlace
  rw [stacked_rebounded]
  exact place

/-- Where no event comes in between, R16 takes a module load out of the stack (R16). -/
theorem fields_unstack (hl : u.live? n = some { config := c, run := q })
    (ht : ∃ node output, c.target = .module node output) (level : c.dimmable = old.dimmable)
    (calm : NoLockoutEvent u n c q) (draw : u.Settled ∨ (q.state.counted = true → old.draw ≤ c.draw))
    (hs : u.stacked n = true) (leaves : (old.restoreAuto = true ∧ c.restoreAuto = false) ∨ c.tier = 0) :
    (u.rebindRecord n old c).fieldChanges n old c =
      (u.unstack n).withRun n { config := c, run := q } (q.rebound c).leaveStack := by
  have live := live?_withRun u n { config := c, run := q } (q.rebound c)
  have settled (h : u.Settled) : (u.withRun n { config := c, run := q } (q.rebound c)).Settled := h
  rw [rebindRecord_calm hl calm, rebounded_same level, reportDirect_module q live ht.choose_spec.choose_spec]
  rw [fieldChanges_unstacks live ht (changeDraw_kept live (draw.imp settled fun h x => h (rebound_counted x))) hs leaves]
  exact withRun_withRun (u.unstack n) ..

theorem fielded_same (h : old.target = c.target) :
    fielded u n old c = (u.rebindRecord n old c).fieldChanges n old c := by
  unfold fielded
  rw [retarget_same h]

end

end Sys2Proof.TableProofs

namespace Sys2Proof.TableProofs

open Sys2Proof.Machine Sys2Proof.Laws

/-! ### A publish that passes its checks -/

theorem exec_publishLive {s : State} {src load : Byte} {n : LoadNo} {l : Live} {c : LoadConfig}
    (k : s.TakesWrite src 2) (hn : load.toNat = n.val) (free : s.mgmt.save = none) (hl : s.live? n = some l)
    (hd : s.loads.slots[n].draft = some c)
    (unique : ∀ m k, m ≠ n → s.live? m = some k → k.config.target ≠ c.target)
    (settled : l.run.state ≠ .winding ∧ l.run.state ≠ .restoring)
    (same : l.config.target = c.target ∨ l.run.state = .off ∨ l.run.state = .unknown ∨ l.run.state = .absent) :
    exec (.publish src load) s = .next (((s.heard .panel src).publishLive n l.config c l.run).censusEnds.joinReply
      { kind := .reply, src := s.own, dst := src, body := [4, 0] }) := by
  have e : Hearing s (s.heard .panel src) := hearing_heard s .panel src
  have untaken : (s.heard .panel src).targetTaken n c.target = false := by
    rw [targetTaken_heard, Bool.eq_false_iff, Ne, targetTaken_iff]
    rintro ⟨m, k, ne, hm, ht⟩
    exact unique m k ne hm ht
  have checked : (s.heard .panel src).publishChecked n =
      (((s.heard .panel src).publishLive n l.config c l.run).censusCheck).done := by
    rw [publishChecked_live (by rw [slot_heard]; exact hd) untaken (by rw [e.live, hl]),
      if_neg (not_or.mpr settled), if_neg]
    rintro ⟨ne, up⟩
    have := (isDown_iff l.run.state).mpr (same.resolve_left ne)
    simp [this] at up
  rw [exec_publish hn, ← censusCheck_eq]
  refine congrArg _ (manage_writes k free checked ?_)
  rw [censusCheck_eq, mgmt_censusEnds]
  exact (acts_publishLive _ n l.config c l.run).mgmt.trans e.mgmt

/-! ### A publish of a live load that brings no event before R17 and R19 -/

/-- The load keeps its target, R15 ends no lockout that a block waits for, R16 is no decrease of committed draw that
one waits for, and R15 has nothing to report. -/
structure QuietPublish (u : State) (n : LoadNo) (old c : LoadConfig) (q : Runtime) : Prop where
  live : u.live? n = some { config := c, run := q }
  target : old.target = c.target
  event : NoLockoutEvent u n c q
  draw : u.Settled ∨ (q.state.counted = true → old.draw ≤ c.draw)
  report : (∃ node output, c.target = .module node output) ∨
    ((q.rebound c).followDimmable old c).state = q.state ∧ ((q.rebound c).followDimmable old c).level = q.level

section
variable {u : State} {n : LoadNo} {old c : LoadConfig} {q : Runtime}

theorem cuttableOn_rebounded (uncut : q.state = .on → u.cuttable c = false) :
    (rebounded u n old c q).cuttableOn n = false := by
  rw [Bool.eq_false_iff, Ne, cuttableOn_iff (live?_rebounded ..), followDimmable_state]
  rintro ⟨on, cut⟩
  have cut : u.cuttable c = true := cut
  rcases rebound_state c q with same | ⟨-, off⟩
  · simp [uncut (same ▸ on)] at cut
  · simp [off] at on

theorem unstacked_uncuttable (u : State) (n : LoadNo) (c : LoadConfig) (q p : Runtime) :
    ((u.unstack n).withRun n { config := c, run := q } p.leaveStack).cuttableOn n = false :=
  cuttableOn_off (live?_withRun ..) (by rcases leaveStack_state p with st | st <;> simp [st])

/-- R17 on a module load that stands as R16 left it, in its record `p`. -/
theorem acted_forced_module {p : Runtime} (hl : u.live? n = some { config := c, run := p })
    (ht : ∃ node output, c.target = .module node output) (forced : forces old c = true) :
    acted u n old c =
      let t := (forcedOut u n p).withRun n { config := c, run := p } { forcedRun c p with owed := some .off }
      (if c.draw ≠ 0 ∧ (p.state = .on ∨ p.state = .winding) then t.drawFell else t).raise .enforced := by
  rw [acted_forced hl forced, forceOff_module hl ht]

/-- A load that is not ON, SHED or WINDING is commanded off as it stands (R17). -/
theorem acted_forced_still {p : Runtime} (hl : u.live? n = some { config := c, run := p })
    (ht : ∃ node output, c.target = .module node output) (forced : forces old c = true)
    (still : p.state ≠ .on ∧ p.state ≠ .shed ∧ p.state ≠ .winding) :
    acted u n old c = (u.withRun n { config := c, run := p } { p with owed := some .off }).raise .enforced := by
  rw [acted_forced_module hl ht forced]
  simp [forcedOut, forcedRun, still]

variable (quiet : QuietPublish u n old c q)
include quiet

theorem fielded_kept (place : KeepsPlace u n old c) : fielded u n old c = rebounded u n old c q := by
  rw [fielded_same quiet.target, fields_kept quiet.live quiet.report quiet.event quiet.draw place]

theorem fielded_keptSame (level : c.dimmable = old.dimmable) (place : KeepsPlace u n old c) :
    fielded u n old c = u.withRun n { config := c, run := q } (q.rebound c) := by
  rw [fielded_kept quiet place, rebounded_same level]

theorem fielded_unstacked (ht : ∃ node output, c.target = .module node output) (level : c.dimmable = old.dimmable)
    (hs : u.stacked n = true) (leaves : (old.restoreAuto = true ∧ c.restoreAuto = false) ∨ c.tier = 0) :
    fielded u n old c = (u.unstack n).withRun n { config := c, run := q } (q.rebound c).leaveStack := by
  rw [fielded_same quiet.target, fields_unstack quiet.live ht level quiet.event quiet.draw hs leaves]

/-- Neither shed nor moved, the load only follows its new timers and its dimmable field (R15). -/
theorem acted_fielded_kept (stays : c.authority = old.authority) (uncut : q.state = .on → u.cuttable c = false)
    (place : KeepsPlace u n old c) : acted (fielded u n old c) n old c = rebounded u n old c q := by
  rw [fielded_kept quiet place, acted_kept stays (cuttableOn_rebounded uncut)]

theorem acted_fielded_unstacked (ht : ∃ node output, c.target = .module node output)
    (level : c.dimmable = old.dimmable) (stays : c.authority = old.authority) (hs : u.stacked n = true)
    (leaves : (old.restoreAuto = true ∧ c.restoreAuto = false) ∨ c.tier = 0) :
    acted (fielded u n old c) n old c =
      (u.unstack n).withRun n { config := c, run := q } (q.rebound c).leaveStack := by
  rw [fielded_unstacked quiet ht level hs leaves, acted_kept stays (unstacked_uncuttable ..)]

/-- A SHED load of authority PASS leaves the stack, by R16 if its fields say so too and by R17 otherwise. -/
theorem acted_fielded_pass (ht : ∃ node output, c.target = .module node output)
    (level : c.dimmable = old.dimmable) (was : old.authority = .governed) (pass : c.authority = .pass)
    (hs : u.stacked n = true) :
    acted (fielded u n old c) n old c =
      (u.unstack n).withRun n { config := c, run := q } (q.rebound c).leaveStack := by
  by_cases leaves : (old.restoreAuto = true ∧ c.restoreAuto = false) ∨ c.tier = 0
  · rw [fielded_unstacked quiet ht level hs leaves, acted_pass (unstacked_uncuttable ..) was pass]
    exact publishUnstacks_of_out (stacked_unstack u n)
  · have live := live?_withRun u n { config := c, run := q } (q.rebound c)
    have place : KeepsPlace u n old c := .inr ⟨by simp_all, fun z => leaves (.inr z)⟩
    rw [fielded_keptSame quiet level place, acted_pass (cuttableOn_governed live (by simp [pass])) was pass,
      publishUnstacks_module live ht hs]
    exact withRun_withRun (u.unstack n) ..

/-- An ON load outside the stack that R17 turns off. -/
theorem acted_fielded_forcedOn (ht : ∃ node output, c.target = .module node output)
    (level : c.dimmable = old.dimmable) (forced : forces old c = true) (hs : u.stacked n = false)
    (on : q.state = .on) :
    acted (fielded u n old c) n old c =
      let t := u.withRun n { config := c, run := q } { (q.rebound c).nowOff c with owed := some .off }
      (if c.draw = 0 then t else t.drawFell).raise .enforced := by
  have st : (q.rebound c).state = .on := (rebound_keeps (by simp [on])).trans on
  rw [fielded_keptSame quiet level (.inl hs), acted_forced_module (live?_withRun ..) ht forced]
  have merged (p : Runtime) := withRun_withRun u n { config := c, run := q } (q.rebound c) p
  simp only [st, forcedOut, forcedRun, ne_eq, ite_not, true_or, and_true, if_true, reduceCtorEq, or_self, if_false]
  rw [merged]

/-- A SHED load that R17 turns off, out of the stack by R16 or by R17. -/
theorem acted_fielded_forcedShed (ht : ∃ node output, c.target = .module node output)
    (level : c.dimmable = old.dimmable) (forced : forces old c = true) (hs : u.stacked n = true)
    (shed : q.state = .shed) :
    acted (fielded u n old c) n old c = ((u.unstack n).withRun n { config := c, run := q }
      { (q.rebound c).leaveStack with owed := some .off }).raise .enforced := by
  by_cases leaves : (old.restoreAuto = true ∧ c.restoreAuto = false) ∨ c.tier = 0
  · rw [fielded_unstacked quiet ht level hs leaves, acted_forced_still (live?_withRun ..) ht forced, withRun_withRun]
    rcases leaveStack_state (q.rebound c) with st | st <;> simp [st]
  · have st : (q.rebound c).state = .shed := (rebound_keeps (by simp [shed])).trans shed
    have place : KeepsPlace u n old c := .inr ⟨by simp_all, fun z => leaves (.inr z)⟩
    rw [fielded_keptSame quiet level place, acted_forced_module (live?_withRun ..) ht forced]
    simp only [st, forcedOut, forcedRun, reduceCtorEq, or_self, and_false, true_or, if_true, if_false]
    exact congrArg (State.raise · .enforced) (withRun_withRun (u.unstack n) ..)

/-- A load OFF, UNKNOWN, ABSENT or LOCKOUT that R17 makes FORCED_OFF owes OFF. -/
theorem acted_fielded_forcedOff (ht : ∃ node output, c.target = .module node output)
    (level : c.dimmable = old.dimmable) (forced : forces old c = true) (hs : u.stacked n = false)
    (off : q.state ≠ .on ∧ q.state ≠ .shed ∧ q.state ≠ .winding) :
    acted (fielded u n old c) n old c = (u.withRun n { config := c, run := q }
      { q.rebound c with owed := some .off }).raise .enforced := by
  rw [fielded_keptSame quiet level (.inl hs), acted_forced_still (live?_withRun ..) ht forced, withRun_withRun]
  rcases rebound_state c q with st | ⟨-, st⟩ <;> simp [st, off]

/-- An ON load outside the stack that is cuttable is shed (R19). -/
theorem acted_fielded_cut (level : c.dimmable = old.dimmable) (cut : u.cuttable c = true) (on : q.state = .on)
    (hs : u.stacked n = false) :
    acted (fielded u n old c) n old c =
      ((u.withRun n { config := c, run := q } (q.rebound c)).shed (u.shedCause c) n).raise .enforced := by
  have st : (q.rebound c).state = .on := (rebound_keeps (by simp [on])).trans on
  rw [fielded_keptSame quiet level (.inl hs)]
  exact acted_shed ((cuttable_iff u c).mp cut).1.1.1 ((cuttableOn_iff (live?_withRun ..)).mpr ⟨st, cut⟩)

end

section
variable {u : State} {n : LoadNo} {old c : LoadConfig} {q : Runtime}

/-! ### A publish of a live load that brings one event -/

/-- The end of a lockout is its event of R15; R16 finds the load as the blocks left it. -/
theorem fielded_lockoutEnds (hl : u.live? n = some { config := c, run := q }) (target : old.target = c.target)
    (ht : ∃ node output, c.target = .module node output) (level : c.dimmable = old.dimmable)
    (ends : q.lockout ≠ none ∧ c.minOff = 0) (le : old.draw ≤ c.draw)
    (kept : (old.restoreAuto = true → c.restoreAuto = true) ∧ c.tier ≠ 0) :
    fielded u n old c = (u.withRun n { config := c, run := q } (q.rebound c)).reportLockout n := by
  obtain ⟨node, output, ht⟩ := ht
  rw [fielded_same target, rebindRecord_eq hl, if_pos ⟨Option.isSome_iff_ne_none.mpr ends.1, ends.2⟩,
    rebounded_same level, reportDirect_module q (live?_withRun ..) ht]
  exact fieldChanges_kept (changeDraw_of_le le) (.inr kept)

/-- The decrease of committed draw is the event of R16. -/
theorem fielded_drawFalls (hl : u.live? n = some { config := c, run := q }) (target : old.target = c.target)
    (ht : ∃ node output, c.target = .module node output) (level : c.dimmable = old.dimmable)
    (calm : NoLockoutEvent u n c q) (lower : c.draw < old.draw) (counts : q.state = .on ∨ q.state = .unknown)
    (kept : (old.restoreAuto = true → c.restoreAuto = true) ∧ c.tier ≠ 0) :
    fielded u n old c = (u.withRun n { config := c, run := q } (q.rebound c)).drawFell := by
  obtain ⟨node, output, ht⟩ := ht
  have st : (q.rebound c).state = q.state := rebound_keeps (by rcases counts with st | st <;> simp [st])
  have live := live?_withRun u n { config := c, run := q } (q.rebound c)
  rw [fielded_same target, rebindRecord_calm hl calm, rebounded_same level, reportDirect_module q live ht]
  refine fieldChanges_kept ((changeDraw_eq live).trans (if_pos ⟨lower, ?_⟩)) (.inr kept)
  rw [st]
  exact counts.imp_right fun unknown => .inr (.inr unknown)

/-- A direct load whose lockout ends is OFF, and reports it (R44). -/
theorem acted_fielded_reported (hl : u.live? n = some { config := c, run := q }) (target : old.target = c.target)
    {d : Fin 4} (ht : c.target = .direct d) (level : c.dimmable = old.dimmable)
    (stays : c.authority = old.authority) (calm : NoLockoutEvent u n c q) (ends : (q.rebound c).state ≠ q.state)
    (off : u.loads.outputs[d] = false) (room : u.ports.replies.length < 8) (free : u.isHeld n = false)
    (place : KeepsPlace u n old c) :
    acted (fielded u n old c) n old c = (u.withRun n { config := c, run := q } (q.rebound c)).withReport
      [byte c.homeChannel, 2, 0, 3, if q.overdue then 2 else 0] := by
  have st : (q.rebound c).state = .off := ((rebound_state c q).resolve_left ends).2
  have live := live?_withRun u n { config := c, run := q } (q.rebound c)
  have body : ((u.withRun n { config := c, run := q } (q.rebound c)).generatedReport n
      { config := c, run := q.rebound c } d).body = [byte c.homeChannel, 2, 0, 3, if q.overdue then 2 else 0] := by
    have off : (u.withRun n { config := c, run := q } (q.rebound c)).loads.outputs[d] = false := off
    have free : (u.withRun n { config := c, run := q } (q.rebound c)).isHeld n = false := free
    rw [generatedReport_eq]
    simp [off, free, st]
    exact ⟨rfl, rfl⟩
  rw [fielded_same target, rebindRecord_calm hl calm, rebounded_same level,
    reportDirect_changed live ht (.inl ends) room, body]
  have live : ((u.withRun n { config := c, run := q } (q.rebound c)).withReport
      [byte c.homeChannel, 2, 0, 3, if q.overdue then 2 else 0]).live? n =
        some { config := c, run := q.rebound c } := live
  rw [fieldChanges_kept (changeDraw_kept live (.inr (by simp [st, LoadState.counted]))) place]
  exact acted_kept stays (cuttableOn_off live (by simp [st]))

/-! ### A publish that moves the load to another target -/

theorem withRun_joinCensus (s : State) (n : LoadNo) (l : Live) (r : Runtime) :
    (s.joinCensus n).withRun n l r = (s.withRun n l r).joinCensus n := by
  rw [joinCensus_eq, joinCensus_eq]; rfl

theorem withRun_joinReply (s : State) (n : LoadNo) (l : Live) (r : Runtime) (f : Frame) :
    (s.joinReply f).withRun n l r = (s.withRun n l r).joinReply f := by
  have raised (c : Cause) : (s.raise c).withRun n l r = (s.withRun n l r).raise c := by
    have calm : (s.withRun n l r).calm = s.calm ∧ ((s.withRun n l r).setPending c).calm = (s.setPending c).calm :=
      ⟨rfl, rfl⟩
    unfold State.raise State.announce
    rw [calm.1, calm.2]
    split
    · have room : ((s.withRun n l r).setPending c).ports.replies = (s.setPending c).ports.replies := rfl
      rw [room]
      split <;> rfl
    · rfl
  have room : (s.withRun n l r).ports.replies = s.ports.replies := rfl
  unfold State.joinReply
  rw [room]
  split
  · rfl
  · exact raised _

/-- On a new target the load is no longer in LOCKOUT, so that R15 re-bounds its timers and nothing more. -/
theorem rebound_retargeted (q : Runtime) (c : LoadConfig) {st : LoadState} (h : st ≠ .lockout) (o : Option Owed) :
    { q with state := st, owed := o, answer := none }.rebound c =
      { q.rebound c with state := st, owed := o, answer := none } := by
  simp [rebound_eq, h]

/-- R15 to R19 on a load just bound in the record `p`, on its new target. -/
theorem acted_bound {p : Runtime} (hl : u.live? n = some { config := c, run := p })
    (level : c.dimmable = old.dimmable) (stays : c.authority = old.authority) (calm : NoLockoutEvent u n c p)
    (draw : u.Settled ∨ (p.state.counted = true → old.draw ≤ c.draw)) (out : u.stacked n = false)
    (st : p.state = .off ∨ p.state = .unknown) :
    acted ((u.rebindRecord n old c).fieldChanges n old c) n old c =
      u.withRun n { config := c, run := p } (p.rebound c) := by
  have same : (p.rebound c).state = p.state := rebound_keeps (by rcases st with st | st <;> simp [st])
  have quiet : ((p.rebound c).followDimmable old c).state = p.state ∧
      ((p.rebound c).followDimmable old c).level = p.level := by
    rw [followDimmable_same level]; exact ⟨same, rfl⟩
  rw [fields_kept hl (.inr quiet) calm draw (.inl out), rebounded_same level]
  exact acted_kept stays (cuttableOn_off (live?_withRun ..) (by
    dsimp only; rw [same]; rcases st with st | st <;> simp [st]))

theorem noLockoutEvent_congr {t : State} {p : Runtime} (ladder : t.ladder = u.ladder) (hold : t.hold = u.hold)
    (lockout : p.lockout = q.lockout) (calm : NoLockoutEvent u n c q) : NoLockoutEvent t n c p := by
  unfold NoLockoutEvent
  rw [lockout, stacked_congr (congrArg _ ladder), isHeld_congr hold]
  exact calm.imp_left (settled_congr hold (by rw [ladder]; exact id) (by rw [ladder]))

theorem kept_releaseTarget (s : State) (t : Target) :
    (s.releaseTarget t).ladder = s.ladder ∧ (s.releaseTarget t).hold = s.hold := by
  cases t <;> exact ⟨rfl, rfl⟩

/-- A module target (R14, R18). -/
theorem acted_fielded_module (hl : u.live? n = some { config := c, run := q }) (ne : old.target ≠ c.target)
    (ht : ∃ node output, c.target = .module node output) (level : c.dimmable = old.dimmable)
    (stays : c.authority = old.authority) (calm : NoLockoutEvent u n c q) (draw : u.Settled ∨ old.draw ≤ c.draw)
    (out : u.stacked n = false) :
    acted (fielded u n old c) n old c = ((u.withRun n { config := c, run := q }
      { q.rebound c with state := .unknown, owed := some .query, answer := none }).releaseTarget
        old.target).joinCensus n := by
  obtain ⟨ladder, hold⟩ := kept_releaseTarget u old.target
  have kept (t : State) : (t.joinCensus n).ladder = t.ladder ∧ (t.joinCensus n).hold = t.hold ∧
      (t.joinCensus n).live? n = t.live? n := by rw [joinCensus_eq]; exact ⟨rfl, rfl, rfl⟩
  obtain ⟨ladder', hold', live⟩ := kept ((u.releaseTarget old.target).withRun n { config := c, run := q }
    { q with state := .unknown, owed := some .query, answer := none })
  have ladder := ladder'.trans ladder
  have hold := hold'.trans hold
  unfold fielded
  rw [retarget_module ne hl ht, acted_bound (live.trans (live?_withRun ..)) level stays
    (noLockoutEvent_congr ladder hold rfl calm)
    (draw.imp (settled_congr hold (by rw [ladder]; exact id) (by rw [ladder])) fun le _ => le)
    ((stacked_congr (congrArg _ ladder) n).trans out) (.inr rfl)]
  rw [withRun_joinCensus, withRun_withRun, rebound_retargeted q c (by decide), releaseTarget_withRun]

/-- The report of a load bound to a direct output: its output off, OFF (R18, R44). -/
def boundFrame (s : State) (n : LoadNo) (c : LoadConfig) (overdue : Bool) : Frame :=
  { kind := .state, src := s.own, dst := 0, body := [byte c.homeChannel, 2, 0, 3,
    (if s.isHeld n then 1 else 0) + if overdue then 2 else 0] }

/-- A direct target (R14, R18). -/
theorem acted_fielded_direct (hl : u.live? n = some { config := c, run := q }) (ne : old.target ≠ c.target)
    {d : Fin 4} (ht : c.target = .direct d) (level : c.dimmable = old.dimmable)
    (stays : c.authority = old.authority) (calm : NoLockoutEvent u n c q)
    (draw : u.Settled ∨ q.state ≠ .unknown ∨ old.draw = 0) (out : u.stacked n = false) :
    acted (fielded u n old c) n old c = ((((u.withRun n { config := c, run := q }
      { q.rebound c with state := .off, owed := none, answer := none }).releaseTarget
        old.target).setOutput d false).leaveCensus n).joinReply (boundFrame u n c q.overdue) := by
  obtain ⟨ladder, hold⟩ := kept_releaseTarget u old.target
  have told := talk_joinReply ((((u.releaseTarget old.target).withRun n { config := c, run := q }
    { q with state := .off, owed := none, answer := none }).setOutput d false).leaveCensus n)
      (boundFrame u n c q.overdue)
  have ladder := told.ladder.trans ladder
  have hold := told.hold.trans hold
  have live := (live?_congr told.loads n).trans (live?_withRun (u.releaseTarget old.target) n
    { config := c, run := q } { q with state := .off, owed := none, answer := none })
  have settled := settled_congr (s := u) hold (by rw [ladder]; exact id) (by rw [ladder])
  unfold fielded
  have bound : u.retarget n old c = ((((u.releaseTarget old.target).withRun n { config := c, run := q }
      { q with state := .off, owed := none, answer := none }).setOutput d false).leaveCensus n).joinReply
        (boundFrame u n c q.overdue) := by
    rw [retarget_direct ne hl ht]
    dsimp only
    split
    next falls =>
      obtain ⟨unknown, counts⟩ := falls
      have still := draw.resolve_right (not_or.mpr ⟨not_not_intro unknown, counts⟩)
      exact blocksTake_settled _ _ (settled still)
    next => rfl
  rw [bound, acted_bound live level stays (noLockoutEvent_congr ladder hold rfl calm) (.inr fun counts => nomatch counts)
    ((stacked_congr (congrArg _ ladder) n).trans out) (.inl rfl), withRun_joinReply]
  have rest (s : State) (l : Live) (p : Runtime) : ((s.setOutput d false).leaveCensus n).withRun n l p =
      ((s.withRun n l p).setOutput d false).leaveCensus n := rfl
  rw [rest, withRun_withRun, rebound_retargeted q c (by decide), releaseTarget_withRun]

end

end Sys2Proof.TableProofs

namespace Sys2Proof.TableProofs

open Sys2Proof.Machine Sys2Proof.Laws

/-- Settles O29: the stages of `State.publishLive` one after another (`fielded`, `acted`), and the cases where no
event, or one, comes in between. -/
theorem publishOfALiveLoad : Obligations.PublishOfALiveLoad := by
  unfold Obligations.PublishOfALiveLoad
  intro s src load n l c k hn free hl hd unique notWinding notRestoring h made handed gives cut bounded leaves out
    entries joined freed bound causeIn down forced stays sameLevels sameTarget owesNoOn r left calm
  have e : Hearing s h := hearing_heard s .panel src
  have hands (t : State) : handed t (t.blocksTake (t.stacked n) (t.isHeld n)) := blocksTake_load t n
  have bounded_eq : bounded = fun q => q.rebound c := funext fun q => (rebound_eq q c).symm
  have leaves_eq : leaves = Runtime.leaveStack := funext fun q => (leaveStack_eq q).symm
  have r_eq : r = l.run.rebound c := congrFun bounded_eq l.run
  have joined_eq : joined = fun t => t.joinCensus n := funext fun t => (joinCensus_eq t n).symm
  have freed_eq : freed = fun t => t.releaseTarget l.config.target := by
    funext t
    simp only [freed]
    cases l.config.target <;> rfl
  have forced_iff : forced ↔ forces l.config c = true := forces_iff.symm
  have live (q : Runtime) : (made q).live? n = some { config := c, run := q } := live?_installDraft
  have remade (q p : Runtime) : (made q).withRun n { config := c, run := q } p = made p := withRun_installDraft
  have give {t : State} (same : sameTarget ∨ down)
      (ht : acted (fielded (made l.run) n l.config c) n l.config c = t) : gives t := by
    refine ⟨_, hands t, ?_⟩
    rw [← ht]
    exact exec_publishLive k hn free hl hd unique ⟨notWinding, notRestoring⟩ same
  have left_eq : left = r.leaveStack := congrFun leaves_eq r
  have ladder (q : Runtime) : (made q).ladder = s.ladder := e.ladder
  have stacked (q : Runtime) : (made q).stacked n = s.stacked n := stacked_congr (congrArg _ (ladder q)) n
  have held (q : Runtime) : (made q).isHeld n = s.isHeld n := e.isHeld n
  have settled (q : Runtime) : s.Settled → (made q).Settled :=
    settled_congr e.hold (by rw [ladder]; exact id) (by rw [ladder])
  have cuttable (q : Runtime) : (made q).cuttable c = s.cuttable c := by
    show h.cuttable c = _
    unfold State.cuttable; rw [e.cutTier, e.mode]
  have counted : l.run.state.counted = true → l.run.state = .on ∨ l.run.state = .unknown := by
    cases st : l.run.state <;> simp_all [LoadState.counted]
  have noEvent {p : Prop} (x : calm p) : NoLockoutEvent (made l.run) n c l.run := by
    unfold NoLockoutEvent
    rw [stacked, held]
    exact x.imp (settled _) And.left
  have noFall {p : Prop} (x : calm p) (hp : l.run.state.counted = true → p) :
      (made l.run).Settled ∨ (l.run.state.counted = true → l.config.draw ≤ c.draw) :=
    x.imp (settled _) fun x counts => x.2 (hp counts)
  have uncut (on : l.run.state = .on → s.cuttable c = false) (st : l.run.state = .on) :
      (made l.run).cuttable c = false := (cuttable _).trans (on st)
  have keepsPlace (place : s.stacked n = true → c.restoreAuto = true ∧ 1 ≤ c.tier) :
      KeepsPlace (made l.run) n l.config c := by
    unfold KeepsPlace
    rw [stacked]
    cases hs : s.stacked n with
    | false => exact .inl rfl
    | true => exact .inr ⟨fun _ => (place hs).1, Nat.one_le_iff_ne_zero.mp (place hs).2⟩
  refine ⟨fun same => ?_, ?_, ?_, ?_, ?_, ?_⟩
  -- The stages in their order.
  · intro fielded' acted'
    refine give same ?_
    unfold acted
    simp only [Bool.or_eq_true, ← forced_iff]
    rfl
  -- What each stage does, on any state with the new configuration.
  · intro u k hu hk own
    obtain ⟨config, q⟩ := k
    obtain rfl : c = config := hk.symm
    intro reported
    have told (t : State) (p : Runtime) (hp : t.live? n = some { config := c, run := p }) (ho : t.own = s.own) :
        t.reportDirect n q = reported t p := by
      cases ht : c.target with
      | module node output =>
        rw [reportDirect_module q hp ht]
        simp only [reported, ht]
      | direct d =>
        rw [reportDirect_direct q hp ht, generatedReport_eq, ho]
        simp only [reported, ht]
    have unstacks : u.publishUnstacks n =
        if u.stacked n = true then reported (out (u.withRun n { config := c, run := q } (leaves q))) (leaves q) else u := by
      rw [publishUnstacks_eq hu, leaves_eq]
      split
      · exact told _ _ (live?_withRun ..) own
      · rfl
    refine ⟨retarget_same, fun ne => ⟨fun node output ht => ?_, fun d ht => ?_⟩, ?_, rfl, ?_, ?_, rfl, unstacks, ?_,
      ?_, rfl, ?_, ?_⟩
    · rw [joined_eq, freed_eq]
      exact retarget_module ne hu ⟨node, output, ht⟩
    · intro t
      have bound_eq : t = (((((freed u).withRun n { config := c, run := q }
          { q with state := .off, owed := none, answer := none }).setOutput d false).leaveCensus n).joinReply
            { kind := .state, src := u.own, dst := 0, body := [byte c.homeChannel, 2, 0, 3,
              (if u.isHeld n then 1 else 0) + if q.overdue then 2 else 0] }) := by
        have held : (freed u).isHeld n = u.isHeld n := by
          rw [freed_eq]; cases l.config.target <;> rfl
        rw [← held, own]
        rfl
      rw [retarget_direct ne hu ht, bound_eq, freed_eq]
    · intro b carrying levelled prior t
      have b_eq : b = q.rebound c := congrFun bounded_eq q
      have levelled_eq : levelled = (q.rebound c).followDimmable l.config c := by
        have carrying_eq (lv : Option Nat) : carrying lv = b.owed.map (Owed.relevel lv) := by
          show carrying lv = q.owed.map (Owed.relevel lv)
          simp only [carrying]
          rcases q.owed with _ | o
          · rfl
          · cases o <;> rfl
        rw [← b_eq, followDimmable_eq]
        simp only [levelled, carrying_eq]
      have prior_eq (t : State) : prior t = t.modifyEntry n (StackEntry.followDimmable l.config c) :=
        (modifyEntry_followDimmable ..).symm
      have t_eq : t = (rebounded u n l.config c q).reportDirect n q := by
        show reported (prior (u.withRun n { config := c, run := q } levelled)) levelled = _
        rw [prior_eq, levelled_eq]
        exact (told _ _ (live?_rebounded ..) own).symm
      rw [rebindRecord_eq hu, t_eq]
      refine ⟨fun calm => if_neg ?_, fun runs zero => ?_⟩
      · rintro ⟨runs, zero⟩
        rcases calm with stopped | long
        · rw [show q.lockout = none from stopped] at runs; cases runs
        · exact long zero
      · rw [if_pos ⟨Option.isSome_iff_ne_none.mpr runs, zero⟩]
        exact hands _
    · exact changeDraw_eq hu
    · unfold State.changeRestore
      simp only [Bool.and_eq_true, Bool.not_eq_true']
    · rw [cuttable_iff, and_assoc, and_assoc]
    · exact cuttableOn_iff hu
    · intro f moved unstacked commanded t
      have moved_eq : moved = forcedRun c q := by
        simp only [moved, leaves_eq, forcedRun]
      have forcedOut_eq (p : Runtime) : (forcedOut u n q).withRun n { config := c, run := q } p =
          unstacked (u.withRun n { config := c, run := q } p) := by
        simp only [forcedOut, unstacked]
        split <;> rfl
      have unstacked_live (t : State) : (unstacked t).live? n = t.live? n ∧ (unstacked t).own = t.own := by
        simp only [unstacked]
        split <;> exact ⟨rfl, rfl⟩
      have t_eq : (((forcedOut u n q).withRun n { config := c, run := q } (forcedRun c q)).commandOff n).reportDirect
          n q = t := by
        cases ht : c.target with
        | module node output =>
          have commanded_eq : commanded = u.withRun n { config := c, run := q } { moved with owed := some .off } := by
            simp only [commanded, ht]
          rw [commandOff_module (live?_withRun ..) ht, withRun_withRun, forcedOut_eq, ← moved_eq, ← commanded_eq]
          refine told (unstacked commanded) { moved with owed := some .off } ?_ ?_
          · rw [(unstacked_live _).1, commanded_eq, live?_withRun]
          · rw [(unstacked_live _).2, commanded_eq]; exact own
        | direct d =>
          have commanded_eq : commanded = (u.withRun n { config := c, run := q } moved).setOutput d false := by
            simp only [commanded, ht]
            rfl
          have driven : (unstacked (u.withRun n { config := c, run := q } moved)).setOutput d false =
              unstacked commanded := by
            rw [commanded_eq]
            simp only [unstacked]
            split <;> rfl
          rw [commandOff_direct (live?_withRun ..) ht, forcedOut_eq, ← moved_eq, driven]
          refine told (unstacked commanded) moved ?_ ?_
          · rw [(unstacked_live _).1, commanded_eq]; exact live?_withRun ..
          · rw [(unstacked_live _).2, commanded_eq]; exact own
      rw [← t_eq, ← forceOff_eq hu]
      exact if_pos (forced_iff.mp f)
    · intro unforced
      exact if_neg ((not_congr forced_iff).mp unforced)
  -- A module load that keeps its target, with no event before R17 and R19.
  · intro node output ht same calm
    have mt : ∃ node output, c.target = .module node output := ⟨node, output, ht⟩
    have quiet : QuietPublish (made l.run) n l.config c l.run :=
      { live := live _, target := same, event := noEvent calm, draw := noFall calm counted, report := .inl mt }
    have inStack (hs : s.stacked n = true) : (made l.run).stacked n = true := (stacked _).trans hs
    have outOfStack (hs : s.stacked n = false) : (made l.run).stacked n = false := (stacked _).trans hs
    have remadeOut (p : Runtime) : ((made l.run).unstack n).withRun n { config := c, run := l.run } p = out (made p) :=
      congrArg out (remade l.run p)
    have remadeEntries : rebounded (made l.run) n l.config c l.run =
        (made ((l.run.rebound c).followDimmable l.config c)).modifyEntry n (StackEntry.followDimmable l.config c) :=
      congrArg (State.modifyEntry · n (StackEntry.followDimmable l.config c)) (remade ..)
    have bright (no : owesNoOn) (was : l.config.dimmable = false) (is : c.dimmable = true) :
        (l.run.rebound c).followDimmable l.config c =
          if r.state = .on then { r with level := some 100 }
          else if r.state = .shed ∨ r.state = .winding then { r with level := some 100, prior := some 100 } else r := by
      rw [followDimmable_eq, if_neg (by simp [was]), if_pos ⟨was, is⟩, ← r_eq, relevel_noOn no]
    have plain (no : owesNoOn) (was : l.config.dimmable = true) (is : c.dimmable = false) :
        (l.run.rebound c).followDimmable l.config c = { r with level := none, prior := none } := by
      rw [followDimmable_eq, if_pos ⟨was, is⟩, ← r_eq, relevel_noOn no]
    have state (st : l.run.state ≠ .lockout) : r.state = l.run.state := r_eq ▸ rebound_keeps st
    refine ⟨fun stay level on place => ?_, fun stay on hs cut no => ⟨fun was is => ?_, fun was is => ?_⟩,
      fun stay shed auto tier no => ⟨fun was is => ?_, fun was is => ?_⟩,
      fun level shed hs => ⟨fun stay leaves => ?_, fun was pass => ?_⟩,
      fun level force => ⟨fun on hs => ?_, fun off hs => ?_, fun shed hs => ?_⟩, fun level cut on hs => ?_⟩
    · refine give (.inl same) ((acted_fielded_kept quiet stay (uncut on) (keepsPlace place)).trans ?_)
      rw [rebounded_same level, remade, r_eq]
    · refine give (.inl same) ((acted_fielded_kept quiet stay (uncut fun _ => cut) (.inl (outOfStack hs))).trans ?_)
      rw [rebounded_out (outOfStack hs), remade, bright no was is, if_pos ((state (by simp [on])).trans on)]
    · refine give (.inl same) ((acted_fielded_kept quiet stay (uncut fun _ => cut) (.inl (outOfStack hs))).trans ?_)
      rw [rebounded_out (outOfStack hs), remade, plain no was is]
    · refine give (.inl same) ((acted_fielded_kept quiet stay (uncut (by simp [shed])) (keepsPlace fun _ =>
        ⟨auto, tier⟩)).trans ?_)
      have st : r.state = .shed := (state (by simp [shed])).trans shed
      rw [remadeEntries, bright no was is, if_neg (by simp [st]), if_pos (.inl st), modifyEntry_followDimmable,
        if_neg (by simp [was]), if_pos ⟨was, is⟩]
      rfl
    · refine give (.inl same) ((acted_fielded_kept quiet stay (uncut (by simp [shed])) (keepsPlace fun _ =>
        ⟨auto, tier⟩)).trans ?_)
      rw [remadeEntries, plain no was is, modifyEntry_followDimmable, if_pos ⟨was, is⟩]
      rfl
    · refine give (.inl same) ((acted_fielded_unstacked quiet mt level stay (inStack hs) leaves).trans ?_)
      rw [remadeOut, left_eq, r_eq]
    · refine give (.inl same) ((acted_fielded_pass quiet mt level was pass (inStack hs)).trans ?_)
      rw [remadeOut, left_eq, r_eq]
    · refine give (.inl same) ((acted_fielded_forcedOn quiet mt level (forced_iff.mp force) (outOfStack hs) on).trans ?_)
      rw [remade, r_eq]
    · have off : l.run.state ≠ .on ∧ l.run.state ≠ .shed ∧ l.run.state ≠ .winding := by
        rcases off with (st | st | st) | st <;> simp [st]
      refine give (.inl same) ((acted_fielded_forcedOff quiet mt level (forced_iff.mp force) (outOfStack hs) off).trans ?_)
      rw [remade, r_eq]
    · refine give (.inl same) ((acted_fielded_forcedShed quiet mt level (forced_iff.mp force) (inStack hs) shed).trans ?_)
      rw [remadeOut, left_eq, r_eq]
    · refine give (.inl same) ((acted_fielded_cut quiet level ((cuttable _).trans cut) on (outOfStack hs)).trans ?_)
      have cause : (made l.run).shedCause c = causeIn s := by
        show (if (made l.run).cutTier ≤ c.tier then ShedCause.stage (made l.run).ladder.active.val else .storage) = _
        rw [show (made l.run).cutTier = s.cutTier from e.cutTier, ladder]
      rw [remade, r_eq, cause]
  -- The same with one event: a lockout that ends, or a decrease of committed draw.
  · intro node output ht same stay level tier restore settles
    have mt : ∃ node output, c.target = .module node output := ⟨node, output, ht⟩
    have kept : (l.config.restoreAuto = true → c.restoreAuto = true) ∧ c.tier ≠ 0 :=
      ⟨restore, Nat.one_le_iff_ne_zero.mp tier⟩
    have settled {t : State} (ht : fielded (made l.run) n l.config c = t) : settles t :=
      give (.inl same) (ht ▸ acted_stays stay)
    refine ⟨fun locked zero le => ⟨_, hands _, settled ?_⟩, fun free lower counts => settled ?_⟩
    · rw [fielded_lockoutEnds (live _) same mt level ⟨locked, zero⟩ le kept, remade, r_eq]
      rfl
    · rw [fielded_drawFalls (live _) same mt level (.inr (.inl free)) lower counts kept, remade, r_eq]
  -- A direct load that keeps its target, and its report.
  · intro d ht same stay level calm on place
    refine ⟨fun st => ?_, fun ends off room free => ?_⟩
    · rw [r_eq] at st
      have quiet : QuietPublish (made l.run) n l.config c l.run :=
        { live := live _, target := same, event := noEvent calm, draw := noFall calm counted
          report := .inr (by rw [followDimmable_same level]; exact ⟨st, rfl⟩) }
      refine give (.inl same) ((acted_fielded_kept quiet stay (uncut on) (keepsPlace place)).trans ?_)
      rw [rebounded_same level, remade, r_eq]
    · have unheld : (made l.run).isHeld n = false := by
        rw [held]
        rcases free with settled | ⟨-, free⟩
        · simp [State.isHeld, settled.1]
        · exact free
      have off : (made l.run).loads.outputs[d] = false := by
        show h.loads.outputs[d] = false
        rw [e.loads]; exact off
      refine give (.inl same) ((acted_fielded_reported (live _) same ht level stay (noEvent calm) (r_eq ▸ ends) off room
        unheld (keepsPlace place)).trans ?_)
      rw [remade, r_eq]
  -- A new target.
  · intro ne isDown hs level stay
    have hs : (made l.run).stacked n = false := (stacked _).trans hs
    refine ⟨fun node output ht calm => ?_, fun d ht calm still => ?_⟩
    · refine give (.inr isDown) ((acted_fielded_module (live _) ne ⟨node, output, ht⟩ level stay (noEvent calm)
        (calm.imp (settled _) fun x => x.2 trivial) hs).trans ?_)
      rw [remade, joined_eq, freed_eq, r_eq]
    · refine give (.inr isDown) ((acted_fielded_direct (live _) ne ht level stay (noEvent calm)
        (still.imp_left (settled _)) hs).trans ?_)
      have heldFreed (q : Runtime) : ((made q).releaseTarget l.config.target).isHeld n = (made l.run).isHeld n :=
        isHeld_congr (kept_releaseTarget (made q) l.config.target).2 n
      have own : (made l.run).own = s.own := e.own
      rw [remade, freed_eq, r_eq]
      simp only [bound]
      rw [heldFreed, ← own]
      rfl

end Sys2Proof.TableProofs

namespace Sys2Proof.LadderProofs

open Sys2Proof.Machine Sys2Proof.Laws

/-! ### The laws of the collections -/

/-- Every command keeps the laws: each arm of `exec` by the lemma of its own meaning. -/
theorem lawful_exec {s t : State} (h : s.Lawful) : ∀ c : Instr, exec c s = .next t → t.Lawful
  | .onRequest .., he => keeps_execOnRequest _ _ _ h he
  | .levelRequest .., he => keeps_execLevelRequest _ _ _ _ h he
  | .offRequest .., he => keeps_execOffRequest _ _ _ h he
  | .onReport .., he => keeps_execOnReport _ _ _ _ h he
  | .offReport .., he => keeps_execOffReport _ _ _ h he
  | .windingReport .., he => keeps_execWindingReport _ _ _ h he
  | .stoppedReport .., he => keeps_execStoppedReport _ _ _ h he
  | .faultReport .., he => keeps_execFaultReport _ _ _ h he
  | .meterArrival .., he => keeps_execMeterArrival _ _ _ h he
  | .dataFrame .., he => keeps_execDataFrame _ _ _ _ h he
  | .frameIgnored .., he => keeps_execFrameIgnored _ _ _ _ _ h he
  | .frameDiscarded line _, he => keeps_execFrameDiscarded line _ h he
  | .readEntry .., he => keeps_execReadEntry _ _ _ h he
  | .writeDraft .., he => keeps_execWriteDraft _ _ _ h he
  | .discardDraft .., he => keeps_execDiscardDraft _ _ h he
  | .publish .., he => keeps_execPublish _ _ h he
  | .retire .., he => keeps_execRetire _ _ h he
  | .map .., he => keeps_execMap _ _ _ h he
  | .readMap .., he => keeps_execReadMap _ _ h he
  | .writeStage .., he => keeps_execWriteStage _ _ h he
  | .readStage .., he => keeps_execReadStage _ _ _ h he
  | .publishLadder .., he => keeps_execPublishLadder _ h he
  | .writeWatch .., he => keeps_execWriteWatch _ _ h he
  | .readWatch .., he => keeps_execReadWatch _ _ h he
  | .writeSetting .., he => keeps_execWriteSetting _ _ _ h he
  | .readSetting .., he => keeps_execReadSetting _ _ h he
  | .readStatus .., he => keeps_execReadStatus _ h he
  | .readResetCause .., he => keeps_execReadResetCause _ h he
  | .dumpOpen .., he => keeps_execDumpOpen _ _ _ h he
  | .dumpNext .., he => keeps_execDumpNext _ h he
  | .dumpClose .., he => keeps_execDumpClose _ h he
  | .sense .., he => keeps_execSense _ _ h he
  | .setMode .., he => keeps_execSetMode _ _ h he
  | .save .., he => keeps_execSave _ h he
  | .warmRestart .., he => keeps_execWarmRestart _ h he
  | .attentionQuery .., he => keeps_execAttentionQuery _ h he
  | .attentionClear .., he => keeps_execAttentionClear _ _ h he
  | .attentionEnable .., he => keeps_execAttentionEnable _ _ h he
  | .attentionDisable .., he => keeps_execAttentionDisable _ _ h he
  | .attentionRelease .., he => keeps_execAttentionRelease _ _ h he
  | .manageUnknownRequest .., he => keeps_execManageUnknownRequest _ _ h he
  | .loadTxStart, he => keeps_execLoadTxStart h he
  | .loadTxEnd, he => keeps_execLoadTxEnd h he
  | .panelTxStart, he => keeps_execPanelTxStart h he
  | .panelTxEnd, he => keeps_execPanelTxEnd h he
  | .minOnExpiry .., he => keeps_execMinOnExpiry _ h he
  | .lockoutExpiry .., he => keeps_execLockoutExpiry _ h he
  | .answerExpiry .., he => keeps_execAnswerExpiry _ h he
  | .graceExpiryCut .., he => keeps_execGraceExpiryCut _ h he
  | .graceExpiryKeep .., he => keeps_execGraceExpiryKeep _ h he
  | .stalenessExpiry, he => keeps_execStalenessExpiry h he
  | .watchDwellExpiry .., he => keeps_execWatchDwellExpiry _ h he
  | .exitDwellExpiry, he => keeps_execExitDwellExpiry h he
  | .overrunExpiry, he => keeps_execOverrunExpiry h he
  | .staggerExpiry, he => keeps_execStaggerExpiry h he
  | .holdLifetimeExpiry .., he => keeps_execHoldLifetimeExpiry _ h he
  | .quietTimerExpiry, he => keeps_execQuietTimerExpiry h he
  | .scanRoundStart, he => keeps_execScanRoundStart h he
  | .scanConversionEnd .., he => keeps_execScanConversionEnd _ h he
  | .requestConversionEnd .., he => keeps_execRequestConversionEnd _ h he
  | .settleEnd, he => keeps_execSettleEnd h he
  | .loadComplete .., he => keeps_execLoadComplete _ h he
  | .saveComplete .., he => keeps_execSaveComplete _ h he
  | .powerOn, he => keeps_execPowerOn h he
  | .brownOut, he => keeps_execBrownOut h he
  | .resetLineAssert, he => keeps_execResetLineAssert h he
  | .resetLineRelease, he => keeps_execResetLineRelease h he
  | .supplyRecovery, he => keeps_execSupplyRecovery h he
  | .failedSwitchFrame .., he => keeps_execFailedSwitchFrame _ _ _ h he
  | .failedStateFrame .., he => keeps_execFailedStateFrame _ _ _ h he

/-- No law looks at the commands that wait. -/
theorem lawful_pending {s : State} (h : s.Lawful) (rest : List Instr) : State.Lawful { s with pending := rest } :=
  lawful_aside h

/-- Settles O4: a step is 1 ms of time (`lawful_tick`) or the front command on the queue's rest (`lawful_exec`). -/
theorem everyStepKeepsTheLaws : Obligations.EveryStepKeepsTheLaws := by
  unfold Obligations.EveryStepKeepsTheLaws
  intro s t h hstep
  unfold step at hstep
  split at hstep
  case h_1 c rest _ => exact lawful_exec (lawful_pending h rest) c hstep
  case h_2 =>
    injection hstep with ticked
    exact ticked ▸ lawful_tick h

end Sys2Proof.LadderProofs

namespace Sys2Proof.LadderProofs

open Sys2Proof.Machine

/-! ### The shed order -/

/-- A numbered configuration comes before another in the shed order (R81). -/
def ShedsBefore (a b : LoadNo × LoadConfig) : Prop := shedBefore a.2 a.1 b.2 b.1 = true

/-- Higher tier first, then higher draw, then higher number (R81). -/
theorem shedsBefore_iff (a b : LoadNo × LoadConfig) : ShedsBefore a b ↔ b.2.tier < a.2.tier ∨
    (a.2.tier = b.2.tier ∧ (b.2.draw < a.2.draw ∨ (a.2.draw = b.2.draw ∧ b.1 < a.1))) := by
  simp [ShedsBefore, shedBefore, eq_comm (a := a.2.tier), eq_comm (a := a.2.draw)]

theorem shedsBefore_trans {a b c : LoadNo × LoadConfig} (h : ShedsBefore a b) (k : ShedsBefore b c) :
    ShedsBefore a c := by
  rw [shedsBefore_iff, Fin.lt_def] at h k ⊢
  omega

/-- Of two loads of different numbers one comes before the other (R81). -/
theorem shedsBefore_of_not {a b : LoadNo × LoadConfig} (ne : b.1 ≠ a.1) (h : ¬ ShedsBefore a b) :
    ShedsBefore b a := by
  rw [Ne, Fin.ext_iff] at ne
  rw [shedsBefore_iff, Fin.lt_def] at h ⊢
  omega

/-! ### Sorting in -/

theorem insertShed_perm (n : LoadNo) (c : LoadConfig) : ∀ es, (insertShed n c es).Perm ((n, c) :: es)
  | [] => .refl _
  | (m, d) :: rest => by
    unfold insertShed
    split
    · exact .refl _
    · exact ((insertShed_perm n c rest).cons _).trans (.swap ..)

/-- A new load put into a list in shed order leaves it in shed order. -/
theorem insertShed_pairwise {n : LoadNo} {c : LoadConfig} : ∀ {es : List (LoadNo × LoadConfig)},
    (∀ e ∈ es, e.1 ≠ n) → es.Pairwise ShedsBefore → (insertShed n c es).Pairwise ShedsBefore
  | [], _, _ => List.pairwise_singleton ..
  | (m, d) :: rest, fresh, sorted => by
    obtain ⟨first, tail⟩ := List.pairwise_cons.mp sorted
    unfold insertShed
    split
    case isTrue before =>
      refine List.pairwise_cons.mpr ⟨fun e he => ?_, sorted⟩
      rcases List.mem_cons.mp he with rfl | he
      · exact before
      · exact shedsBefore_trans (show ShedsBefore (n, c) (m, d) from before) (first e he)
    case isFalse after =>
      refine List.pairwise_cons.mpr
        ⟨fun e he => ?_, insertShed_pairwise (fun e he => fresh e (.tail _ he)) tail⟩
      rcases List.mem_cons.mp ((insertShed_perm n c rest).mem_iff.mp he) with rfl | he
      · exact shedsBefore_of_not (fresh _ (.head _)) after
      · exact first e he

/-- A load that the test names, with its configuration. -/
def passing (s : State) (p : Live → Bool) (n : LoadNo) : Option (LoadNo × LoadConfig) :=
  ((s.live? n).filter p).map fun l => (n, l.config)

theorem passing_eq_some_iff {s : State} {p : Live → Bool} {n : LoadNo} {e : LoadNo × LoadConfig} :
    passing s p n = some e ↔ ∃ l, s.live? n = some l ∧ p l = true ∧ (n, l.config) = e := by
  simp [passing, Option.filter_eq_some_iff, and_assoc]

/-- A number enters the list with its load's configuration, or the list stays. -/
theorem sortIn_eq (s : State) (p : Live → Bool) (es : List (LoadNo × LoadConfig)) (n : LoadNo) :
    s.sortIn p es n = (passing s p n).elim es fun e => insertShed e.1 e.2 es := by
  unfold State.sortIn passing
  cases s.live? n with
  | none => rfl
  | some l => cases pass : p l <;> simp [Option.filter, pass]

/-- Sorting in numbers adds just those the test names. -/
theorem sortIn_foldl_perm (s : State) (p : Live → Bool) :
    ∀ (ns : List LoadNo) (es : List (LoadNo × LoadConfig)),
      (ns.foldl (s.sortIn p) es).Perm (ns.filterMap (passing s p) ++ es)
  | [], _ => .refl _
  | n :: ns, es => by
    refine (sortIn_foldl_perm s p ns _).trans ?_
    rw [sortIn_eq]
    cases named : passing s p n with
    | none => simp [named]
    | some e =>
      rw [List.filterMap_cons_some named]
      exact ((insertShed_perm e.1 e.2 es).append_left _).trans List.perm_middle

/-- Sorting in different numbers, none of them in the list yet, keeps shed order. -/
theorem sortIn_foldl_pairwise (s : State) (p : Live → Bool) :
    ∀ {ns : List LoadNo} {es : List (LoadNo × LoadConfig)}, ns.Nodup → (∀ e ∈ es, e.1 ∉ ns) →
      es.Pairwise ShedsBefore → (ns.foldl (s.sortIn p) es).Pairwise ShedsBefore
  | [], _, _, _, sorted => sorted
  | n :: ns, es, once, fresh, sorted => by
    obtain ⟨new, once⟩ := List.nodup_cons.mp once
    have later : ∀ e ∈ es, e.1 ∉ ns := fun e he hn => fresh e he (.tail _ hn)
    rw [List.foldl_cons, sortIn_eq]
    cases named : passing s p n with
    | none => exact sortIn_foldl_pairwise s p once later sorted
    | some e =>
      obtain ⟨l, -, -, rfl⟩ := passing_eq_some_iff.mp named
      refine sortIn_foldl_pairwise s p once (fun e he => ?_)
        (insertShed_pairwise (fun e he same => fresh e he (same ▸ .head _)) sorted)
      rcases List.mem_cons.mp ((insertShed_perm ..).mem_iff.mp he) with rfl | he
      · exact new
      · exact later e he

/-! ### The whole list -/

/-- The list behind `State.inShedOrder`: the loads named, each with its configuration. -/
def shedList (s : State) (p : Live → Bool) : List (LoadNo × LoadConfig) :=
  (List.finRange 48).foldl (s.sortIn p) []

theorem inShedOrder_eq (s : State) (p : Live → Bool) : s.inShedOrder p = (shedList s p).map (·.1) := rfl

theorem mem_shedList {s : State} {p : Live → Bool} {e : LoadNo × LoadConfig} :
    e ∈ shedList s p ↔ ∃ l, s.live? e.1 = some l ∧ p l = true ∧ l.config = e.2 := by
  rw [shedList, (sortIn_foldl_perm ..).mem_iff]
  simp only [List.append_nil, List.mem_filterMap, List.mem_finRange, true_and, passing_eq_some_iff]
  constructor
  · rintro ⟨n, l, live, pass, rfl⟩
    exact ⟨l, live, pass, rfl⟩
  · rintro ⟨l, live, pass, config⟩
    exact ⟨e.1, l, live, pass, Prod.ext rfl config⟩

theorem shedList_pairwise (s : State) (p : Live → Bool) : (shedList s p).Pairwise ShedsBefore :=
  sortIn_foldl_pairwise s p (List.nodup_finRange 48) nofun .nil

theorem shedsBefore_ne {a b : LoadNo × LoadConfig} (h : ShedsBefore a b) : a ≠ b := by
  rintro rfl
  rw [shedsBefore_iff, Fin.lt_def] at h
  omega

/-- Settles O56: the list is made by sorting in each number once, and two of its loads stand as their live
configurations do. -/
theorem shedOrderIsTotal : Obligations.ShedOrderIsTotal := by
  unfold Obligations.ShedOrderIsTotal
  intro s p
  have config {e : LoadNo × LoadConfig} {l : Live} (he : e ∈ shedList s p) (hl : s.live? e.1 = some l) :
      l.config = e.2 := by
    obtain ⟨l', hl', -, same⟩ := mem_shedList.mp he
    rw [hl] at hl'
    cases hl'
    exact same
  simp only [inShedOrder_eq]
  refine ⟨fun n => ?_, ?_, ?_⟩
  · constructor
    · intro hn
      obtain ⟨e, he, rfl⟩ := List.mem_map.mp hn
      obtain ⟨l, live, pass, -⟩ := mem_shedList.mp he
      exact ⟨l, live, pass⟩
    · rintro ⟨l, live, pass⟩
      exact List.mem_map.mpr ⟨(n, l.config), mem_shedList.mpr ⟨l, live, pass, rfl⟩, rfl⟩
  · refine List.pairwise_map.mpr ((shedList_pairwise s p).imp_of_mem fun {a b} ha hb before same => ?_)
    obtain ⟨l, live, -, own⟩ := mem_shedList.mp ha
    exact shedsBefore_ne before (Prod.ext same (own.symm.trans (config hb (same ▸ live))))
  · refine List.pairwise_map.mpr ((shedList_pairwise s p).imp_of_mem fun {a b} ha hb before k l hk hl => ?_)
    rw [config ha hk, config hb hl]
    exact (shedsBefore_iff a b).mp before

end Sys2Proof.LadderProofs

namespace Sys2Proof.LadderProofs

open Sys2Proof.Machine Sys2Proof.Laws Sys2Proof.TableProofs

/-! ### Stages drafted and read -/

theorem stageOfByte_of {stage : Byte} {i : Fin 8} (hi : stage.toNat = i.val) : stageOfByte stage = some i := by
  simp [stageOfByte, hi]

/-- A WRITE STAGE that is taken writes the stage its record names into the draft; it is no matter whether a save is
in flight (R70). -/
theorem exec_writeStage {s : State} {src : Byte} {record : List Byte} {w : StageWrite} (k : s.TakesWrite src 15)
    (hw : stageOfRecord record = some w) (len : record.length = 14) :
    exec (.writeStage src record) s =
      .next (((s.heard .panel src).writeStage w).withReply src [8, 0]) := by
  simp only [exec, execWriteStage, hw, len]
  exact congrArg _ (manage_does k.1 (fun _ => k) rfl rfl)

/-- A READ STAGE that is taken answers the stage of the named copy, or NOT_FOUND (R70). -/
theorem exec_readStage {s : State} {src stage copy : Byte} {i : Fin 8} (k : s.Takes src 3)
    (hi : stage.toNat = i.val) (hc : copy = 1 ∨ copy = 2) :
    exec (.readStage src stage copy) s = .next ((s.heard .panel src).withReply src
      ((s.ladderCopy copy).elim [9, 3] fun l => [9, 0] ++ l.record i)) := by
  have copied : (s.heard .panel src).ladderCopy copy = s.ladderCopy copy := by
    unfold State.ladderCopy
    rw [(hearing_heard s .panel src).ladder]
  simp only [exec, execReadStage, if_pos hc, stageOfByte_of hi]
  cases found : s.ladderCopy copy with
  | none => exact congrArg _ (manage_refuses (status := .notFound) k nofun (by simp only [copied, found]))
  | some l => exact congrArg _ (manage_does (data := l.record i) k nofun (by simp only [copied, found]) rfl)

/-- Settles O32: a written stage enters the draft by `Ladder.write`, and a read one is that of
`State.ladderCopy`. -/
theorem stagesAreDraftedAndRead : Obligations.StagesAreDraftedAndRead := by
  unfold Obligations.StagesAreDraftedAndRead
  intro s src h base put
  have put_eq (w : StageWrite) : h.writeStage w = put (base.write w) := by
    simp only [State.writeStage, put, base, h, (hearing_heard s .panel src).ladder]
  refine ⟨fun record k => ⟨fun i st hw len => ?_, fun ceiling stagger dwell hw len => ?_⟩, fun stage i k hi => ?_⟩
  · rw [exec_writeStage k hw len, put_eq]; rfl
  · rw [exec_writeStage k hw len, put_eq]; rfl
  · refine ⟨exec_readStage k hi (.inl rfl), fun d hd => ?_, fun hd => ?_⟩
    all_goals
      rw [exec_readStage k hi (.inr rfl), show s.ladderCopy 2 = s.ladder.draft from rfl, hd]
      rfl

/-! ### The checks of PUBLISH LADDER -/

/-- A ladder fails check 4 exactly when its cut tier or its ceiling rises from an enabled stage to a later
one (R71). -/
theorem ordered_eq_false_iff (l : Ladder) : l.ordered = false ↔ ∃ i j : Fin 8, i < j ∧ l.enabled i = true ∧
    l.enabled j = true ∧ (l.cutTier i < l.cutTier j ∨ l.ceiling i < l.ceiling j) := by
  simp only [Ladder.ordered, List.all_eq_false, List.mem_finRange, true_and, Bool.not_eq_true, Bool.or_eq_false_iff,
    Bool.not_eq_false', Bool.and_eq_true, Bool.and_eq_false_iff, decide_eq_true_eq, decide_eq_false_iff_not,
    Nat.not_le, and_assoc]

theorem isBlank_iff (p : Pattern) : p.isBlank = true ↔ ∀ k : Fin 12, p.terms[k] = .ignore := by
  simp [Pattern.isBlank, Vector.all_eq_true, Term.takesPart, Fin.forall_iff]

/-- A ladder fails check 5 exactly when a pattern of an enabled stage is blank (R71). -/
theorem patterned_eq_false_iff (l : Ladder) : l.patterned = false ↔ ∃ i : Fin 7, l.stages[i].enable = true ∧
    ((∀ k : Fin 12, l.stages[i].entry.terms[k] = .ignore) ∨ ∀ k : Fin 12, l.stages[i].exit.terms[k] = .ignore) := by
  simp only [← isBlank_iff]
  simp only [Ladder.patterned, Vector.all_eq_false, Fin.exists_iff, Bool.not_eq_true, Bool.or_eq_false_iff,
    Bool.and_eq_false_iff, Bool.not_eq_false', Fin.getElem_fin]

theorem beforeLoadEnds_iff (s : State) :
    s.beforeLoadEnds = true ↔ s.control.phase = some .settle ∨ s.control.phase = some .load := by
  simp [State.beforeLoadEnds]

/-- Check 3 of a PUBLISH LADDER, once LOAD has ended (R71). -/
theorem publishLadderChecked_undrafted {s : State} (late : s.beforeLoadEnds = false) (hd : s.ladder.draft = none) :
    s.publishLadderChecked = s.refuse .notFound := by
  unfold State.publishLadderChecked
  rw [late, hd]; rfl

/-- Checks 4 to 6 of a PUBLISH LADDER, once LOAD has ended and a draft stands (R71). -/
theorem publishLadderChecked_drafted {s : State} {d : Ladder} (late : s.beforeLoadEnds = false)
    (hd : s.ladder.draft = some d) : s.publishLadderChecked =
      if d.ordered = false then s.refuse .ladderOrder
      else if d.patterned = false then s.refuse .ladderPattern
      else (s.installLadder d).recompute.done := by
  unfold State.publishLadderChecked
  rw [late, hd]; rfl

/-- Settles O33: the checks of `State.publishLadderChecked` in their order; the recompute of the installed ladder
keeps both copies (`acts_recompute`). -/
theorem publishLadderInstallsTheDraft : Obligations.PublishLadderInstallsTheDraft := by
  unfold Obligations.PublishLadderInstallsTheDraft
  intro s src k h answers early rises blank
  have e : Hearing s h := hearing_heard s .panel src
  have early_iff : h.beforeLoadEnds = true ↔ early := by rw [beforeLoadEnds_iff, e.phase]
  have refused (status : Status) (free : s.mgmt.save = none) (r : h.publishLadderChecked = h.refuse status) :
      answers (byte status.code) :=
    congrArg _ (manage_refuses k.1 (fun _ => k) ((unlessSaving_free _ free).trans r))
  have past (late : ¬ early) : h.beforeLoadEnds = false := Bool.eq_false_iff.mpr (mt early_iff.mp late)
  refine ⟨fun busy => ?_, fun free soon => ?_, fun free late hd => ?_, fun d free late hd => ?_⟩
  · exact congrArg _ (manage_refuses (status := .busy) k.1 (fun _ => k) (unlessSaving_busy _ busy))
  · exact refused .notReady free (if_pos (early_iff.mpr soon))
  · exact refused .notFound free (publishLadderChecked_undrafted (past late) (by rw [e.ladder, hd]))
  have drafted := publishLadderChecked_drafted (past late) (show h.ladder.draft = some d by rw [e.ladder, hd])
  have rises_iff : d.ordered = false ↔ rises d := ordered_eq_false_iff d
  have blank_iff : d.patterned = false ↔ blank d := patterned_eq_false_iff d
  refine ⟨fun r => ?_, fun r b => ?_, fun r b => ?_⟩
  · exact refused .ladderOrder free (by rw [drafted, if_pos (rises_iff.mpr r)])
  · exact refused .ladderPattern free (by rw [drafted, if_neg (mt rises_iff.mp r), if_pos (blank_iff.mpr b)])
  intro installed
  have installed_eq : h.installLadder d = installed := by
    simp only [State.installLadder, installed, e.ladder]
  rw [installed_eq, if_neg (mt rises_iff.mp r), if_neg (mt blank_iff.mp b)] at drafted
  have acts : Acts installed installed.recompute := acts_recompute installed
  have published : exec (.publishLadder src) s = .next (installed.recompute.joinReply
      { kind := .reply, src := s.own, dst := src, body := [10, 0] }) :=
    congrArg _ (manage_writes (a := ()) (act := fun _ u => u.publishLadderChecked) k free drafted
      (acts.mgmt.trans e.mgmt))
  have told := talk_joinReply installed.recompute { kind := .reply, src := s.own, dst := src, body := [10, 0] }
  exact ⟨published, _, published, by rw [told.ladder]; exact acts.live, by rw [told.ladder]; exact acts.draft⟩

end Sys2Proof.LadderProofs

namespace Sys2Proof.AdmissionProofs

open Sys2Proof.Machine

/-! ### The step -/

/-- No command stops the part: each meaning is written as a next state. -/
theorem exec_next (c : Instr) (s : State) : ∃ t, exec c s = .next t := by
  cases c
  all_goals exact ⟨_, rfl⟩

/-- A command that waits is run on the rest of the queue. -/
theorem step_pending {s : State} {c : Instr} {rest : List Instr} (waits : s.pending = c :: rest) :
    step s = exec c { s with pending := rest } := by
  unfold step
  rw [waits]

/-- Settles O1: the first branch of `step`, and `exec_next`. A command put first has the queue as it was for its
rest. -/
theorem stepRunsTheFrontCommand : Obligations.StepRunsTheFrontCommand := by
  unfold Obligations.StepRunsTheFrontCommand
  exact ⟨fun _ _ _ waits => step_pending waits, fun s c => step_pending (s := s.putFirst c) rfl, exec_next⟩

end Sys2Proof.AdmissionProofs

namespace Sys2Proof.AdmissionProofs

open Sys2Proof.Machine Sys2Proof.Laws Sys2Proof.TableProofs

/-! ### The Hold Queue -/

section
variable {s : State} {src ch : Byte} {n : LoadNo} {l : Live} {w : Wish}

/-- The checks that are left for a load that is off, in GOVERNING: its stage, its lockout and the budget (R120). -/
theorem judge_governing_off (mode : s.control.mode = .governing) (a : l.config.authority = .governed)
    (off : l.run.state = .off ∨ l.run.state = .lockout ∨ l.run.state = .shed) :
    s.judge l =
      if s.cutTier ≤ l.config.tier then .staged
      else if l.run.state = .lockout ∨ (l.run.state = .shed ∧ l.run.lockout ≠ none) then .locked
      else if s.ceiling < s.draw + l.config.draw then .overBudget
      else .grant := by
  rw [judge_governed a (by simp [mode])]
  rcases off with st | st | st <;> simp [st, mode, Option.isSome_iff_ne_none]

/-- In GOVERNING a GOVERNED load's request meets a check that may hold it while the load winds down, and when a load
that is off fails its stage, its lockout or the budget (R120, R121). -/
theorem mayHold_judge (mode : s.control.mode = .governing) (a : l.config.authority = .governed)
    (stopped : l.run.state = .winding ∨
      ((l.run.state = .off ∨ l.run.state = .lockout ∨ l.run.state = .shed) ∧
        (s.cutTier ≤ l.config.tier ∨ l.run.state = .lockout ∨
          (l.run.state = .shed ∧ l.run.lockout ≠ none) ∨ s.ceiling < s.draw + l.config.draw))) :
    mayHold (s.judge l) = true := by
  rcases stopped with winding | ⟨off, why⟩
  · rw [judge_governed a (by simp [mode])]
    simp [winding, mayHold]
  · rw [judge_governing_off mode a off]
    split
    case isTrue => rfl
    case isFalse staged =>
      split
      case isTrue => rfl
      case isFalse locked =>
        split
        case isTrue => rfl
        case isFalse dear =>
          rcases why with p | p | p | p
          · exact absurd p staged
          · exact absurd (.inl p) locked
          · exact absurd (.inr p) locked
          · exact absurd p dear

/-- A request stopped by a check that may hold it has the outcome "hold" (R121). -/
theorem decideRequest_holds {q m : Nat} (held : mayHold (s.judge l) = true) :
    ∃ reason, s.decideRequest n l q m w = s.holdOrRefuse n l q m w reason := by
  unfold State.decideRequest
  cases verdict : s.judge l
  case winding | staged | locked | overBudget => exact ⟨_, rfl⟩
  all_goals simp [verdict, mayHold] at held

theorem answerSwitch_held (room : s.ports.replies.length < 8) :
    s.answerSwitch src.toNat ch.toNat .held = s.withReply src [0, 2, ch, 0] := by
  rw [answerSwitch_room room, byte_toNat, byte_toNat]; rfl

/-- A first request joins a queue with room, with its lifetime, and is answered HELD (R121, R130). -/
theorem holdOrRefuse_appends {reason : RefuseReason} (hold : l.config.hold = true) (free : s.isHeld n = false)
    (short : s.hold.length < 16) (room : s.ports.replies.length < 8) :
    s.holdOrRefuse n l src.toNat ch.toNat w reason =
      (s.appendHeld n src.toNat ch.toNat w).withReply src [0, 2, ch, 0] := by
  unfold State.holdOrRefuse
  rw [if_pos hold, heldFor_of_isHeld free]
  exact (if_pos short).trans (answerSwitch_held (s := s.appendHeld n src.toNat ch.toNat w) room)

/-- A first request that finds the queue full is refused HOLD_FULL, and raises the cause of that name (R121). -/
theorem holdOrRefuse_full {reason : RefuseReason} (hold : l.config.hold = true) (free : s.isHeld n = false)
    (full : 16 ≤ s.hold.length) (room : s.ports.replies.length < 8) :
    s.holdOrRefuse n l src.toNat ch.toNat w reason = (s.withReply src [0, 1, ch, 9]).raise .holdFull := by
  unfold State.holdOrRefuse
  rw [if_pos hold, heldFor_of_isHeld free]
  refine (if_neg (Nat.not_lt.mpr full)).trans ?_
  rw [answerSwitch_refused room]; rfl

/-- A newer request takes the place of the one held, whose requester is answered WITHDRAWN(REPLACED) before the new
one is answered HELD (R121). -/
theorem holdOrRefuse_replaces {reason : RefuseReason} {old : Held} (hold : l.config.hold = true)
    (held : s.heldFor n = some old) (room : s.ports.replies.length < 7) :
    s.holdOrRefuse n l src.toNat ch.toNat w reason =
      ((s.replaceHeld n src.toNat ch.toNat w).withReply (byte old.requester) [0, 5, byte old.channel, 10]).withReply
        src [0, 2, ch, 0] := by
  have withdrawn : (s.replaceHeld n src.toNat ch.toNat w).answerSwitch old.requester old.channel (.withdrawn .replaced) =
      (s.replaceHeld n src.toNat ch.toNat w).withReply (byte old.requester) [0, 5, byte old.channel, 10] :=
    answerSwitch_room (show s.ports.replies.length < 8 by omega)
  unfold State.holdOrRefuse
  rw [if_pos hold, held]
  simp only [withdrawn]
  exact answerSwitch_held (by simp [State.withReply, State.replaceHeld]; omega)

end

/-- Settles O38: `mayHold_judge` says that a check which may hold stops the request, and `State.holdOrRefuse` has
the three outcomes. -/
theorem heldRequestsJoinTheQueue : Obligations.HeldRequestsJoinTheQueue := by
  unfold Obligations.HeldRequestsJoinTheQueue
  intro s src dst channel c w n l asks k reaches mode a hold stopped h minutes
  have e : Hearing s h := hearing_heard s .panel src
  have ⟨_, small, _, _⟩ := reaches
  have judged : mayHold (h.judge l) = true := by
    rw [judge_heard]
    exact mayHold_judge mode a stopped
  obtain ⟨reason, holds⟩ := decideRequest_holds (n := n) (w := w) (q := src.toNat) (m := channel.toNat) judged
  have asked : exec c s = .next (h.holdOrRefuse n l src.toNat channel.toNat w reason) := by
    rw [asks_exec asks k small, admission_reaches reaches e, holds]
  refine ⟨fun free short room => ?_, fun free full room => ?_, fun old held room => ?_⟩
  · rw [asked, holdOrRefuse_appends hold ((e.isHeld n).trans free) (e.hold ▸ short) room]
    simp only [State.appendHeld, State.newLifetime, e.hold, e.mgmt]
    rfl
  · rw [asked, holdOrRefuse_full hold ((e.isHeld n).trans free) (e.hold ▸ full) room]
  · have heldHere : h.heldFor n = some old := by
      unfold State.heldFor
      rw [e.hold]
      exact held
    rw [asked, holdOrRefuse_replaces hold heldHere room]
    simp only [State.replaceHeld, e.hold]

end Sys2Proof.AdmissionProofs

namespace Sys2Proof.LineProofs

open Sys2Proof.Machine Sys2Proof.Laws Sys2Proof.TableProofs

/-! ### The panel-line transmitter -/

/-- The transmitter's choice: a frame in flight stays alone, then the reply list, then the relay FIFO (R147). -/
theorem startPanel_cases (p : Ports) :
    (p.panelTx = none → ∀ f rest, p.replies = f :: rest →
      p.startPanel = { p with panelTx := some f, replies := rest }) ∧
    (p.panelTx = none → p.replies = [] → ∀ f rest, p.panelFifo = f :: rest →
      p.startPanel = { p with panelTx := some f, panelFifo := rest }) ∧
    (p.panelTx ≠ none ∨ (p.replies = [] ∧ p.panelFifo = []) → p.startPanel = p) := by
  obtain ⟨fifo, load, replies, tx, loadTx⟩ := p
  refine ⟨?_, ?_, ?_⟩
  · rintro rfl f rest rfl; rfl
  · rintro rfl rfl f rest rfl; rfl
  · rintro (busy | ⟨rfl, rfl⟩)
    · obtain ⟨f, rfl⟩ := Option.ne_none_iff_exists'.mp busy; rfl
    · cases tx <;> rfl

/-- Settles O53: the transmitter's choice is `Ports.startPanel`, and the end of a frame frees its own line. -/
theorem panelLineSendsRepliesFirst : Obligations.PanelLineSendsRepliesFirst := by
  unfold Obligations.PanelLineSendsRepliesFirst
  intro s
  obtain ⟨reply, relayed, stays⟩ := startPanel_cases s.ports
  refine ⟨fun free f rest waits => ?_, fun free answered f rest waits => ?_, fun idle => ?_, fun busy => ?_, rfl, rfl⟩
  · simp only [exec, execPanelTxStart, reply free f rest waits]
  · simp only [exec, execPanelTxStart, relayed free answered f rest waits]
  · simp only [exec, execPanelTxStart, stays idle]
  · obtain ⟨f, inFlight⟩ := Option.ne_none_iff_exists'.mp busy
    simp only [exec, execLoadTxStart, inFlight]

/-! ### The frame check -/

theorem kindOfByte_kindByte (k : FrameKind) : kindOfByte (kindByte k) = some k := by cases k <;> rfl

/-- A frame's own bytes, with any two check bytes behind them, pass the port's check exactly when those are the
CRC-16 of its header and body (R137, R182). -/
theorem checkFrame_content {f : Frame} (source : sourceOk f.src = true) (destination : destinationOk f.dst = true)
    (short : f.body.length ≤ 16) (hi lo : Byte) :
    checkFrame (f.content ++ [hi, lo]) = if [hi, lo] = word16 (crc16 f.content).toNat then some f else none := by
  have length : (byte f.body.length).toNat = f.body.length := toNat_byte (by omega)
  have body : (f.body ++ [hi, lo]).take f.body.length = f.body := List.take_left
  have check : (f.body ++ [hi, lo]).drop f.body.length = [hi, lo] := List.drop_left
  have bytes : f.content ++ [hi, lo] =
      kindByte f.kind :: f.src :: f.dst :: byte f.body.length :: (f.body ++ [hi, lo]) := rfl
  rw [bytes]
  simp only [checkFrame, kindOfByte_kindByte, length, body, check, List.length_append, List.length_cons,
    List.length_nil, source, destination, Config.bodyMax, short, true_and, and_true]
  rfl

/-- Settles O9: the frame's own check bytes are the ones `checkFrame_content` asks for, and no others are. -/
theorem frameCheckRoundTrip : Obligations.FrameCheckRoundTrip := by
  unfold Obligations.FrameCheckRoundTrip
  intro f source destination short
  have checked := checkFrame_content source destination short
  exact ⟨(checked _ _).trans (if_pos rfl), fun hi lo other => (checked hi lo).trans (if_neg other)⟩

/-! ### DATA frames -/

theorem crosses_iff (s : State) (line : Line) (dst : Byte) :
    s.crosses line dst = true ↔ dst ≠ s.own ∧ (dst = 0 ∨ s.side dst.toNat ≠ Line.side line) := by
  simp [State.crosses]

/-- A frame that joins the relay FIFO toward the other line: at its end, or lost with RELAY_OVERFLOW (R143). -/
theorem joinOther_cases (s : State) (f : Frame) :
    (s.ports.loadFifo.length < 16 → s.joinOther .panel f =
      { s with ports := { s.ports with loadFifo := s.ports.loadFifo ++ [f] } }) ∧
    (16 ≤ s.ports.loadFifo.length → s.joinOther .panel f = s.raise .relayOverflow) ∧
    (s.ports.panelFifo.length < 16 → s.joinOther .load f =
      { s with ports := { s.ports with panelFifo := s.ports.panelFifo ++ [f] } }) ∧
    (16 ≤ s.ports.panelFifo.length → s.joinOther .load f = s.raise .relayOverflow) :=
  ⟨fun room => if_pos room, fun full => if_neg (Nat.not_lt.mpr full), fun room => if_pos room,
    fun full => if_neg (Nat.not_lt.mpr full)⟩

/-- Settles O12: a DATA frame that is heard crosses by `crosses_iff`, and then joins the FIFO toward the other
line, which hearing it left as it was. -/
theorem dataCrossesByTheNodeSideTable : Obligations.DataCrossesByTheNodeSideTable := by
  unfold Obligations.DataCrossesByTheNodeSideTable
  intro s line src dst body k h frame crosses
  have e : Hearing s h := hearing_heard s line src
  have asks : h.crosses line dst = true ↔ crosses := by rw [crosses_iff, e.own]
  have taken : exec (.dataFrame line src dst body) s =
      .next (if h.crosses line dst then h.joinOther line frame else h) := congrArg _ (takeFrame_hears _ k)
  obtain ⟨toLoad, loadFull, toPanel, panelFull⟩ := joinOther_cases h frame
  rw [taken, ← e.loadFifo, ← e.panelFifo]
  refine ⟨fun stays => ?_, fun leaves line room => ?_, fun leaves line room => ?_, fun leaves line full => ?_,
    fun leaves line full => ?_⟩
  · rw [if_neg (mt asks.mp stays)]
  all_goals
    subst line
    rw [if_pos (asks.mpr leaves)]
  · exact congrArg _ (toLoad room)
  · exact congrArg _ (toPanel room)
  · exact congrArg _ (loadFull full)
  · exact congrArg _ (panelFull full)

end Sys2Proof.LineProofs

namespace Sys2Proof.LineProofs

open Sys2Proof.Machine Sys2Proof.Laws Sys2Proof.TableProofs

/-! ### Occurrences and the NOTICE -/

section
variable {s : State} {c : Cause}

theorem calm_iff (s : State) : s.calm = true ↔ ∀ i : Fin 15, s.attention[i].announceable = false := by
  simp only [State.calm, Vector.all_eq_true, Bool.not_eq_true']
  exact ⟨fun h i => h i i.isLt, fun h i hi => h ⟨i, hi⟩⟩

/-- An occurrence changes the flags of no cause but its own (R177). -/
theorem announceable_setPending (s : State) (c : Cause) (i : Fin 15) :
    (s.setPending c).attention[i].announceable =
      if i = c.index then s.attention[c.index].enabled && !s.attention[c.index].inService
      else s.attention[i].announceable := by
  unfold State.setPending
  simp only [modifyCause_fields]
  split
  · subst i; simp [CauseFlags.announceable]
  · have apart : c.index.val ≠ i.val := fun e => ‹¬ i = c.index› (Fin.ext e.symm)
    simp [Vector.getElem_set_ne _ _ apart]

/-- The bits of the causes that pass, when one cause does (R185). -/
theorem summary_single {p : CauseFlags → Bool} {k : Fin 15} (only : ∀ i : Fin 15, p s.attention[i] = decide (i = k)) :
    s.summary p = 2 ^ k.val := by
  have sums : ∀ k : Fin 15, ((List.finRange 15).map fun i => if i = k then 2 ^ i.val else 0).sum = 2 ^ k.val := by
    decide
  simpa only [State.summary, only, decide_eq_true_eq] using sums k

/-- An occurrence announces a set that was empty when its cause is enabled and not in service (R178). -/
theorem raise_announces (quiet : s.calm = true) (enabled : s.attention[c.index].enabled = true)
    (idle : s.attention[c.index].inService = false) :
    s.raise c = if s.ports.replies.length < 8 then
        (s.setPending c).pushReply { kind := .notice, src := s.own, dst := 0, body := word16 (2 ^ c.index.val) }
      else (s.setPending c).setPending .relayOverflow := by
  have only (i : Fin 15) : (s.setPending c).attention[i].announceable = decide (i = c.index) := by
    rw [announceable_setPending, enabled, idle, (calm_iff s).mp quiet i]
    split <;> simp [*]
  have loud : (s.setPending c).calm = false := by
    refine Bool.eq_false_iff.mpr fun calm => ?_
    have hushed := (calm_iff _).mp calm c.index
    rw [only] at hushed
    simp at hushed
  have notice : (s.setPending c).noticeFrame =
      { kind := .notice, src := s.own, dst := 0, body := word16 (2 ^ c.index.val) } := by
    unfold State.noticeFrame
    rw [summary_single only]; rfl
  unfold State.raise State.announce
  rw [quiet, loud, notice]; rfl

/-- An occurrence in a set that is not empty, or of a cause that is not announceable, builds no NOTICE (R178). -/
theorem raise_silent (h : s.calm = false ∨ (s.setPending c).calm = true) : s.raise c = s.setPending c := by
  unfold State.raise State.announce
  rcases h with h | h <;> simp [h]

end

/-- Settles O23: whether the set was empty and whether the cause joins it decide what `State.announce` does. -/
theorem occurrenceSetsPendingAndAnnounces : Obligations.OccurrenceSetsPendingAndAnnounces := by
  unfold Obligations.OccurrenceSetsPendingAndAnnounces
  intro s c marked emptySet
  have calm : emptySet ↔ s.calm = true := (calm_iff s).symm
  refine ⟨fun empty enabled idle full => ?_, fun empty enabled idle room => ?_, fun ⟨i, pending, enabled, idle⟩ => ?_,
    fun barred => ?_⟩
  · rw [raise_announces (calm.mp empty) enabled idle, if_neg (Nat.not_lt.mpr full)]; rfl
  · rw [raise_announces (calm.mp empty) enabled idle, if_pos room]; rfl
  · refine raise_silent (.inl (Bool.eq_false_iff.mpr fun calm => ?_))
    have hushed := (calm_iff s).mp calm i
    rw [CauseFlags.announceable, pending, enabled, idle] at hushed
    exact absurd hushed (by decide)
  · refine raise_silent ((Bool.eq_false_or_eq_true s.calm).symm.imp_right fun calm => (calm_iff _).mpr fun i => ?_)
    rw [announceable_setPending, (calm_iff s).mp calm i]
    rcases barred with off | serving
    · rw [off, Bool.false_and, ite_self]
    · rw [serving, Bool.not_true, Bool.and_false, ite_self]

end Sys2Proof.LineProofs

namespace Sys2Proof.LineProofs

open Sys2Proof.Machine Sys2Proof.Laws Sys2Proof.TableProofs

/-! ### The arguments of the requests

Each request's arguments parse exactly in the ranges of its layout (R164, R185). -/

theorem isSome_loadOfByte (b : Byte) : (loadOfByte b).isSome = decide (b.toNat < 48) := by
  unfold loadOfByte; split <;> simp [*]

theorem isSome_entryArgs (load copy : Byte) :
    (entryArgs load copy).isSome = (decide (load.toNat < 48) && decide (1 ≤ copy.toNat) && decide (copy.toNat ≤ 3)) := by
  rw [Bool.and_assoc, ← Bool.decide_and]
  unfold entryArgs
  split
  · simp [isSome_loadOfByte, *]
  · simp [*]

theorem isSome_mapArgs (ch load : Byte) :
    (mapArgs ch load).isSome = (decide (ch.toNat ≤ 127) && (decide (load.toNat < 48) || load == 255)) := by
  unfold mapArgs mapEntryOfByte
  split
  · by_cases unmapped : load = 255
    · simp [*]
    · rw [if_neg unmapped, beq_false_of_ne unmapped]; simp [isSome_loadOfByte, *]
  · simp [*]

theorem isSome_startArgs (b : Byte) :
    (if b.toNat ≤ 127 then some b.toNat else none).isSome = decide (b.toNat ≤ 127) := by split <;> simp [*]

theorem isSome_stageArgs (stage copy : Byte) : (if copy = 1 ∨ copy = 2 then stageOfByte stage else none).isSome =
    (decide (stage.toNat ≤ 7) && decide (1 ≤ copy.toNat) && decide (copy.toNat ≤ 2)) := by
  have copies : copy = 1 ∨ copy = 2 ↔ 1 ≤ copy.toNat ∧ copy.toNat ≤ 2 := by
    simp only [← BitVec.toNat_inj, BitVec.ofNat_eq_ofNat, BitVec.toNat_ofNat]; omega
  rw [Bool.and_assoc, ← Bool.decide_and]
  simp only [copies, stageOfByte]
  split
  · split <;> simp [*] <;> omega
  · simp [*]

theorem isSome_watchOfByte (b : Byte) : (watchOfByte b).isSome = (decide (1 ≤ b.toNat) && decide (b.toNat ≤ 8)) := by
  rw [← Bool.decide_and]
  unfold watchOfByte; split <;> simp [*]

theorem isSome_causeOfByte (b : Byte) : (causeOfByte b).isSome = (decide (1 ≤ b.toNat) && decide (b.toNat ≤ 15)) := by
  rw [← Bool.decide_and]
  unfold causeOfByte; split <;> simp [*]

theorem isSome_readSetting (st : Settings) (code : Byte) :
    (st.read code).isSome = (decide (1 ≤ code.toNat) && decide (code.toNat ≤ 8)) := by
  unfold Settings.read
  rw [← Bool.decide_and]
  split
  case h_9 =>
    simp only [imp_false] at *
    rw [eq_comm, Option.isSome_none, decide_eq_false_iff_not]
    omega
  all_goals simp [*]

theorem isSome_inputOfByte (b : Byte) : (inputOfByte b).isSome = (decide (1 ≤ b.toNat) && decide (b.toNat ≤ 4)) := by
  unfold inputOfByte
  simp only [← BitVec.toNat_inj, BitVec.ofNat_eq_ofNat, BitVec.toNat_ofNat, ← Bool.decide_and]
  repeat' split
  all_goals
    simp only [Option.isSome_some, Option.isSome_none, Bool.true_eq, Bool.false_eq, decide_eq_true_eq,
      decide_eq_false_iff_not]
    omega

theorem isSome_modeOfByte (b : Byte) : (modeOfByte b).isSome = (decide (1 ≤ b.toNat) && decide (b.toNat ≤ 3)) := by
  unfold modeOfByte
  simp only [← BitVec.toNat_inj, BitVec.ofNat_eq_ofNat, BitVec.toNat_ofNat, ← Bool.decide_and]
  repeat' split
  all_goals
    simp only [Option.isSome_some, Option.isSome_none, Bool.true_eq, Bool.false_eq, decide_eq_true_eq,
      decide_eq_false_iff_not]
    omega

theorem isSome_dumpArgs (collection start : Byte) : (dumpArgs collection start).isSome = dumpIndexOk collection start := by
  unfold dumpArgs
  cases ok : dumpIndexOk collection start with
  | false => rfl
  | true =>
    have named : collection = 1 ∨ collection = 2 ∨ collection = 3 ∨ collection = 4 := by
      unfold dumpIndexOk at ok
      split at ok
      case isTrue h => exact h.elim .inl fun h => .inr (.inr (.inl h))
      case isFalse =>
        split at ok
        · exact .inr (.inl ‹_›)
        · split at ok
          · exact .inr (.inr (.inr ‹_›))
          · exact absurd ok Bool.false_ne_true
    rcases named with rfl | rfl | rfl | rfl <;> rfl

/-! ### The checks that every request meets first -/

/-- The command is taken as the MANAGE request `r`, by arguments that parse exactly when `State.argumentsOk` says so. -/
def TakenAs (s : State) (c : Instr) (r : Request) : Prop :=
  ∃ (α : Type) (args : Option α) (act : α → State → State × Option Answer),
    exec c s = .next (s.manage r.src r.code r.length r.write args act) ∧ args.isSome = s.argumentsOk c

section
variable {α : Type} {s : State} {c : Instr} {src code : Byte} {length : Nat} {write : Bool} {args : Option α}
  {act : α → State → State × Option Answer}

theorem takenAs_of (taken : exec c s = .next (s.manage src code length write args act))
    (ok : args.isSome = s.argumentsOk c) : TakenAs s c ⟨src, code, length, write⟩ := ⟨α, args, act, taken, ok⟩

/-- Every MANAGE request of a node is taken as its layout says, and its arguments are those of the layout
(R164, R185). -/
theorem takenAs_request {r : Request} (hr : requestOf c = some r) (source : sourceOk r.src = true) :
    TakenAs s c r := by
  cases c <;> cases hr
  all_goals
    replace source : sourceOk _ = true := source
    refine takenAs_of rfl ?_
    simp only [State.argumentsOk, Instr.wellFormed, source, Bool.true_and, Option.isSome_some, isSome_entryArgs,
      isSome_loadOfByte, isSome_mapArgs, isSome_startArgs, isSome_stageArgs, isSome_watchOfByte,
      isSome_causeOfByte, isSome_readSetting, isSome_inputOfByte, isSome_modeOfByte, isSome_dumpArgs]

end

/-- Settles O13: a request is taken as `takenAs_request` says, and the common part of `State.manage` discards or refuses
it before its own effect. -/
theorem requestsAreDiscardedOrRefused : Obligations.RequestsAreDiscardedOrRefused := by
  unfold Obligations.RequestsAreDiscardedOrRefused
  have source {s : State} {src dst : Byte} {length : Nat} (k : s.Hears src dst length) : sourceOk src = true :=
    (Bool.and_eq_true_iff.mp k.2.1).1
  refine ⟨fun s c r hr k full => ?_, fun s c r hr k => ?_⟩
  · obtain ⟨α, args, act, taken, -⟩ := takenAs_request (s := s) hr (source k)
    exact taken.trans (congrArg _ (manage_full act k full))
  · obtain ⟨α, args, act, taken, parses⟩ := takenAs_request (s := s) hr (source k.1)
    refine ⟨fun bad => ?_, fun good write listed outsider => ?_⟩
    · obtain rfl := Option.isNone_iff_eq_none.mp (Option.isSome_eq_false_iff.mp (parses.trans bad))
      exact taken.trans (congrArg _ (manage_badArg act k))
    · obtain ⟨a, rfl⟩ := Option.isSome_iff_exists.mp (parses.trans good)
      rw [taken, write]
      exact congrArg _ (manage_denied act k listed outsider)

end Sys2Proof.LineProofs

namespace Sys2Proof.LineProofs

open Sys2Proof.Machine Sys2Proof.Laws Sys2Proof.TableProofs

/-! ### What every decision leaves alone beside the drafts and the census -/

/-- `t` has the drafts, the census, the Channel Map and the Node Side Table of `s`; an empty queue and an empty sense
slot stay empty. -/
structure Stays (s t : State) : Prop extends Untouched s t where
  map : t.loads.map = s.loads.map := by rfl
  sides : t.sides = s.sides := by rfl
  hold : s.hold = [] → t.hold = [] := by exact id
  slot : s.sense.slot = none → t.sense.slot = none := by exact id

theorem Stays.refl (s : State) : Stays s s := { }

theorem Stays.trans {s t u : State} (h : Stays s t) (k : Stays t u) : Stays s u :=
  { h.toUntouched.trans k.toUntouched with
    map := k.map.trans h.map
    sides := k.sides.trans h.sides
    hold := k.hold ∘ h.hold
    slot := k.slot ∘ h.slot }

theorem stays_talk {s t : State} (h : Talk s t) : Stays s t :=
  { untouched_talk h with
    map := by rw [h.loads]
    sides := h.sides
    hold := h.hold.trans
    slot := fun e => by rw [h.sense, e] }

theorem stays_foldl {α : Type} {f : State → α → State} (hf : ∀ s a, Stays s (f s a)) (l : List α) (s : State) :
    Stays s (l.foldl f s) := by
  induction l generalizing s with
  | nil => exact Stays.refl s
  | cons a l ih => exact (hf s a).trans (ih _)

theorem stays_either {f g : State → State} (hf : ∀ s, Stays s (f s)) (hg : ∀ s, Stays s (g s)) (s : State) :
    Stays s (s.eitherOrder f g) := by
  have hc : Stays s s.chosen := { }
  unfold State.eitherOrder
  split
  · exact hc.trans ((hf _).trans (hg _))
  · exact hc.trans ((hg _).trans (hf _))

section
variable (s : State) (n : LoadNo)

/-! Records and commands -/

theorem stays_changeRun (f : LoadConfig → Runtime → Runtime) : Stays s (s.changeRun n f) :=
  { untouched_changeRun s n f with }

theorem stays_setOutput (d : Fin 4) (on : Bool) : Stays s (s.setOutput d on) := { }

theorem stays_push (e : StackEntry) : Stays s (s.push e) := { }

theorem stays_unstack : Stays s (s.unstack n) := { }

theorem stays_oweOn (level : Option Nat) : Stays s (s.oweOn n level) := by
  unfold State.oweOn
  split
  · exact Stays.refl s
  · exact Stays.trans (t := s.setOwed n _) (stays_changeRun ..) { }

theorem stays_commandOff : Stays s (s.commandOff n) := by
  unfold State.commandOff
  split
  · exact stays_changeRun ..
  · exact stays_setOutput ..
  · exact Stays.refl s

theorem stays_commandOn (level : Option Nat) : Stays s (s.commandOn n level) := by
  unfold State.commandOn
  split
  · exact stays_oweOn ..
  · exact stays_setOutput ..
  · exact Stays.refl s

theorem stays_unhold : Stays s (s.unhold n) := { hold := fun e => by simp [State.unhold, e] }

theorem stays_decideHeld (r : SwitchReply) : Stays s (s.decideHeld n r) := by
  unfold State.decideHeld
  split
  · exact (stays_unhold s n).trans (stays_talk (talk_answerSwitch ..))
  · exact Stays.refl s

theorem stays_withdrawHeld (p : Held → Bool) (r : WithdrawReason) : Stays s (s.withdrawHeld p r) :=
  stays_foldl (fun t _ => stays_decideHeld t _ _) ..

theorem stays_restoreEnded : Stays s (s.restoreEnded n) := by
  unfold State.restoreEnded
  split <;> exact { }

theorem stays_leaveStack : Stays s (s.leaveStack n) :=
  (stays_unstack s n).trans (stays_changeRun ..)

/-! The converter and doze -/

theorem stays_converterNext : Stays s s.converterNext := by
  unfold State.converterNext
  split
  · exact Stays.refl s
  · split
    · rename_i waits
      exact { slot := fun e => absurd (waits.symm.trans e) nofun }
    · split <;> exact { }

theorem stays_endDoze : Stays s s.endDoze := by
  unfold State.endDoze State.roundDue
  split
  · split
    · exact Stays.trans (t := s.wake.startRound) { } (stays_converterNext _)
    · exact { }
  · exact Stays.refl s

theorem stays_changeEndsDoze : Stays s s.changeEndsDoze := by
  unfold State.changeEndsDoze
  split
  · exact (stays_endDoze s).trans { }
  · exact Stays.refl s

/-! Scans -/

theorem stays_relevel (level : Option Nat) : Stays s (s.relevel n level) := by
  unfold State.relevel
  split
  · exact ((stays_changeRun s n _).trans (stays_commandOn ..)).trans (stays_talk (talk_reportDirect ..))
  · exact Stays.refl s

theorem stays_takeHeldLevel (c : LoadConfig) (w : Wish) : Stays s (s.takeHeldLevel n c w) := by
  unfold State.takeHeldLevel
  split
  · exact Stays.refl s
  · split
    · exact stays_relevel ..
    · exact Stays.refl s

theorem stays_grantByRestore : Stays s (s.grantByRestore n) := by
  unfold State.grantByRestore
  split
  · exact (stays_decideHeld ..).trans (stays_takeHeldLevel ..)
  · exact Stays.refl s

theorem stays_restore (e : StackEntry) : Stays s (s.restore e) := by
  have unstacked := stays_unstack s e.load
  unfold State.restore
  split
  · exact Stays.refl s
  · dsimp only
    split
    · exact (((unstacked.trans (stays_changeRun ..)).trans (stays_oweOn ..)).trans { }).trans
        (stays_grantByRestore ..)
    · exact ((((unstacked.trans (stays_changeRun ..)).trans (stays_setOutput ..)).trans { }).trans
        (stays_talk (talk_reportDirect ..))).trans (stays_grantByRestore ..)

theorem stays_scanEvent : Stays s s.scanEvent := by
  unfold State.scanEvent State.scan
  split
  · split
    · exact stays_restore ..
    · exact Stays.refl s
  · exact Stays.refl s

/-! Replays -/

theorem stays_forwardPass (w : Wish) : Stays s (s.forwardPass n w) := by
  unfold State.forwardPass State.directOn
  split
  · exact stays_talk (talk_joinLoadFifo ..)
  · split
    · exact (((stays_changeRun s n _).trans (stays_unstack ..)).trans (stays_setOutput ..)).trans
        (stays_talk (talk_reportDirect ..))
    · exact Stays.refl s
  · exact Stays.refl s

theorem stays_switchOn (w : Wish) : Stays s (s.switchOn n w) := by
  unfold State.switchOn
  split
  · exact (((stays_unstack s n).trans (stays_changeRun ..)).trans (stays_commandOn ..)).trans
      (stays_talk (talk_reportDirect ..))
  · exact Stays.refl s

theorem stays_replayEntry (h : Held) : Stays s (s.replayEntry h) := by
  have unheld := stays_unhold s h.load
  unfold State.replayEntry
  split
  · exact Stays.refl s
  · split
    case h_1 => exact (unheld.trans (stays_talk (talk_answerSwitch ..))).trans (stays_forwardPass ..)
    case h_5 => exact (unheld.trans (stays_switchOn ..)).trans (stays_talk (talk_answerSwitch ..))
    case h_2 | h_3 | h_4 => exact stays_decideHeld ..
    all_goals exact Stays.refl s

theorem stays_replayEvent : Stays s s.replayEvent := by
  unfold State.replayEvent
  split
  · exact stays_foldl stays_replayEntry ..
  · exact Stays.refl s

theorem stays_blocksTake (scan replay : Bool) : Stays s (s.blocksTake scan replay) := by
  unfold State.blocksTake
  split
  · exact stays_either stays_scanEvent stays_replayEvent s
  · exact stays_scanEvent s
  · exact stays_replayEvent s
  · exact Stays.refl s

theorem stays_reportDraw (before : State) : Stays s (s.reportDraw before) := by
  unfold State.reportDraw
  split
  · exact stays_blocksTake ..
  · exact Stays.refl s

theorem stays_reportFalls (before : State) : Stays s (s.reportFalls before State.drawFell) :=
  stays_foldl (fun t _ => stays_blocksTake t true true) ..

/-! Sheds and last gasp -/

theorem stays_dropWithdrawn : Stays s (s.dropWithdrawn n) :=
  (stays_changeRun ..).trans (stays_commandOff ..)

theorem stays_shedRecord (l : Live) (cause : ShedCause) : Stays s (s.shedRecord n l cause) := by
  unfold State.shedRecord
  split
  · exact stays_dropWithdrawn ..
  · split
    · exact ((stays_changeRun ..).trans (stays_changeRun ..)).trans (stays_push ..)
    · split
      · exact ((stays_changeRun ..).trans (stays_commandOff ..)).trans (stays_push ..)
      · exact (stays_changeRun ..).trans (stays_commandOff ..)

theorem stays_shed (cause : ShedCause) : Stays s (s.shed cause n) := by
  refine Stays.trans ?_ (stays_reportDraw ..)
  unfold State.shedOne
  split
  · exact Stays.refl s
  · split
    · exact ((stays_shedRecord ..).trans (stays_restoreEnded ..)).trans (stays_talk (talk_reportDirect ..))
    · exact Stays.refl s

theorem stays_sweep : Stays s s.sweep :=
  (stays_foldl (fun t _ => stays_shed t _ _) ..).trans (stays_talk (talk_enforcedFor ..))

theorem stays_liftEntry : Stays s (s.liftEntry n) := by
  unfold State.liftEntry
  split <;> exact { }

theorem stays_gaspRecord (l : Live) : Stays s (s.gaspRecord n l) := by
  unfold State.gaspRecord
  split
  · exact stays_dropWithdrawn ..
  · split
    · exact ((stays_changeRun ..).trans (stays_commandOff ..)).trans (stays_liftEntry ..)
    · exact ((stays_changeRun ..).trans (stays_commandOff ..)).trans (stays_push ..)

theorem stays_gaspOne : Stays s (s.gaspOne n) := by
  unfold State.gaspOne
  split
  · exact Stays.refl s
  · split
    · exact ((stays_gaspRecord ..).trans (stays_restoreEnded ..)).trans (stays_talk (talk_reportDirect ..))
    · exact Stays.refl s

theorem stays_lastGasp : Stays s s.lastGasp := by
  unfold State.lastGasp
  refine Stays.trans ?_ (stays_talk (talk_raise ..))
  split
  · exact stays_foldl stays_gaspOne ..
  · exact Stays.refl s

/-! Stages and the recompute -/

theorem stays_judgeOverrun : Stays s s.judgeOverrun := by
  unfold State.judgeOverrun
  split
  · split <;> exact { }
  · exact { }

theorem stays_judgeNewExit : Stays s s.judgeNewExit := by
  unfold State.judgeNewExit
  split <;> exact { }

theorem stays_setStage (i : Fin 8) : Stays s (s.setStage i) := { }

/-- A change of stage from the sheds on, or without them (R76, R78). -/
theorem stays_stageTaken : Stays s s.judgeOverrun.judgeNewExit.stageChanged :=
  ((stays_judgeOverrun s).trans (stays_judgeNewExit _)).trans (stays_blocksTake ..)

theorem stays_evaluate (c : Change) : Stays s (s.evaluate c) := by
  have raised (i : Fin 8) : Stays s ((s.setStage i).raise .stageChange) :=
    (stays_setStage s i).trans (stays_talk (talk_raise ..))
  unfold State.evaluate
  split
  · unfold State.judgeExit
    split
    · split
      · exact (raised _).trans (stays_stageTaken _)
      · exact { }
    · exact { }
  · exact ((raised _).trans (stays_foldl (fun t _ => stays_shed t _ _) ..)).trans (stays_stageTaken _)

theorem stays_takeOverFall (before : State) : Stays s (s.takeOverFall before) := by
  unfold State.takeOverFall
  split
  · dsimp only
    split
    · exact (stays_changeEndsDoze s).trans (stays_evaluate ..)
    · exact (stays_changeEndsDoze s).trans (stays_either (fun t => stays_evaluate t _) stays_scanEvent _)
  · exact Stays.refl s

theorem stays_restage : Stays s s.restage := by
  unfold State.restage
  split
  · exact stays_setStage ..
  · exact (stays_setStage ..).trans (stays_talk (talk_raise ..))

theorem stays_boundOverrun : Stays s s.boundOverrun := { }

theorem stays_recompute : Stays s s.recompute :=
  ((((((stays_restage s).trans (stays_sweep _)).trans (stays_judgeOverrun _)).trans (stays_boundOverrun _)).trans
    (stays_judgeNewExit _)).trans (stays_blocksTake ..)).trans (stays_takeOverFall ..)

/-! Changes of mode -/

theorem stays_departed (st : LoadState) : Stays s (s.departed n st) := by
  cases st
  case winding => exact ((stays_unstack s n).trans (stays_changeRun ..)).trans (stays_commandOff ..)
  case shed => exact stays_leaveStack s n
  all_goals exact Stays.refl s

theorem stays_releaseEntry : Stays s (s.releaseEntry n) := by
  unfold State.releaseEntry
  split
  · have left (l : Live) := (stays_departed s n l.run.state).trans (stays_talk (talk_reportDirect _ n l.run))
    dsimp only
    split
    · exact left _
    · exact (left _).trans (stays_reportDraw ..)
  · exact Stays.refl s

theorem stays_releaseEntries (p : StackEntry → Bool) : Stays s (s.releaseEntries p) :=
  stays_foldl stays_releaseEntry ..

theorem stays_leaveFor (new : Mode) : Stays s (s.leaveFor new) := by
  unfold State.leaveFor State.leaveStorage
  split
  · exact ((Stays.trans (t := s.setMode new) { } (stays_releaseEntries ..)).trans (stays_endDoze _)).trans { }
  · exact { }

theorem stays_enterMode (old : Mode) : Stays s (s.enterMode old) := by
  unfold State.enterMode
  split
  · exact (stays_releaseEntries ..).trans (stays_withdrawHeld ..)
  · unfold State.enterGoverning
    split
    · exact stays_sweep s
    · exact Stays.refl s
  · exact (((stays_foldl (fun t _ => stays_shed t _ .storage) ..).trans (stays_withdrawHeld ..)).trans { }).trans
      (stays_talk (talk_enforcedFor ..))
  · exact Stays.refl s

theorem stays_changeMode (new : Mode) : Stays s (s.changeMode new) := by
  have told (t : State) : Stays t (t.tellDepartures s new) := by
    unfold State.tellDepartures
    split
    · exact stays_reportFalls ..
    · exact Stays.refl _
  have gasp (t : State) : Stays t (t.gaspOnEntry new) := by
    unfold State.gaspOnEntry
    split
    · exact (stays_lastGasp _).trans (stays_reportFalls ..)
    · exact Stays.refl _
  exact ((((stays_leaveFor s new).trans (stays_enterMode ..)).trans (told _)).trans (gasp _)).trans
    (stays_blocksTake ..)

end

end Sys2Proof.LineProofs

namespace Sys2Proof.LineProofs

open Sys2Proof.Machine Sys2Proof.Laws Sys2Proof.TableProofs

/-! ### What a change of mode and a warm restart keep -/

/-- `t` has the settings, the live and draft ladder, the meter values, the watches, the Channel Map, the Node Side
Table, the drafts and the live configurations of `s`. -/
structure SameTables (s t : State) : Prop where
  settings : t.mgmt.settings = s.mgmt.settings := by rfl
  live : t.ladder.live = s.ladder.live := by rfl
  meter : t.meter = s.meter := by rfl
  watches : t.watches = s.watches := by rfl
  map : t.loads.map = s.loads.map := by rfl
  draft : t.ladder.draft = s.ladder.draft := by rfl
  sides : t.sides = s.sides := by rfl
  drafts : ∀ n : LoadNo, t.loads.slots[n].draft = s.loads.slots[n].draft := by exact fun _ => rfl
  config : ∀ n, config? t n = config? s n := by exact fun _ => rfl

theorem SameTables.trans {s t u : State} (h : SameTables s t) (k : SameTables t u) : SameTables s u :=
  ⟨k.settings.trans h.settings, k.live.trans h.live, k.meter.trans h.meter, k.watches.trans h.watches,
   k.map.trans h.map, k.draft.trans h.draft, k.sides.trans h.sides, fun n => (k.drafts n).trans (h.drafts n),
   fun n => (k.config n).trans (h.config n)⟩

theorem sameTables_of {s t : State} (a : Acts s t) (k : Stays s t) : SameTables s t :=
  ⟨by rw [a.mgmt], a.live, a.meter, a.watches, k.map, a.draft, k.sides, k.draft, a.config⟩

theorem sameTables_talk {s t : State} (h : Talk s t) : SameTables s t := sameTables_of h.acts (stays_talk h)

section
variable (s : State)

theorem sameTables_changeMode (new : Mode) : SameTables s (s.changeMode new) :=
  SameTables.trans (t := s.setMode new) { }
    (sameTables_of (acts_changeMode s new) (Stays.trans (t := s) { } (stays_changeMode s new)))

/-! ### A warm restart -/

theorem hold_decideHeld (n : LoadNo) (r : SwitchReply) :
    (s.decideHeld n r).hold = s.hold.filter (·.load != n) := by
  unfold State.decideHeld
  split
  · exact (talk_answerSwitch ..).hold
  · rename_i unheld
    refine (List.filter_eq_self.mpr fun e he => ?_).symm
    simpa using List.find?_eq_none.mp unheld e he

/-- Once every held request has been withdrawn the queue is empty (R134). -/
theorem hold_withdrawHeld_all (r : WithdrawReason) : (s.withdrawHeld (fun _ => true) r).hold = [] := by
  have left (es : List Held) (t : State) :
      ∀ h ∈ (es.foldl (fun u e => u.decideHeld e.load (.withdrawn r)) t).hold, h ∈ t.hold ∧ h ∉ es := by
    induction es generalizing t with
    | nil => simp
    | cons e es ih =>
      intro h hh
      obtain ⟨here, out⟩ := ih _ h hh
      rw [hold_decideHeld, List.mem_filter] at here
      refine ⟨here.1, ?_⟩
      rintro (_ | ⟨_, later⟩)
      · simp at here
      · exact out later
  refine List.eq_nil_iff_forall_not_mem.mpr fun h hh => ?_
  unfold State.withdrawHeld at hh
  rw [List.filter_eq_self.mpr fun _ _ => rfl] at hh
  obtain ⟨held, out⟩ := left _ _ h hh
  exact out held

theorem acts_clearSlot : Acts s s.clearSlot :=
  ⟨rfl, rfl, rfl, rfl, rfl, id, id, id, fun _ => rfl, rfl, rfl, rfl, rfl, rfl, rfl⟩

/-- A SENSE request in the slot is aborted, and the slot is empty (R52). -/
theorem abortSense_spec : Acts s s.abortSense ∧ Stays s s.abortSense ∧ s.abortSense.sense.slot = none := by
  unfold State.abortSense
  split
  · have told := talk_answerManage s.clearSlot (byte (‹SenseRequest›).requester) 20 { status := .aborted }
    exact ⟨(acts_clearSlot s).trans told.acts,
      Stays.trans (t := s.clearSlot) { slot := fun _ => rfl } (stays_talk told), congrArg SenseUnit.slot told.sense⟩
  · exact ⟨Acts.refl s, Stays.refl s, ‹_›⟩

theorem moduleLoads_congr {s t : State} (h : ∀ n, config? t n = config? s n) : t.moduleLoads = s.moduleLoads := by
  unfold State.moduleLoads
  refine List.filter_congr fun n _ => ?_
  have same := h n
  unfold config? at same
  cases ht : t.live? n <;> cases hs : s.live? n <;> simp_all

/-- A warm restart up to its recompute: the reset recorded, every held request withdrawn, the cursor closed and the
SENSE request aborted (R163). -/
def cleared (s : State) : State :=
  (((s.recordReset .warmRestart).withdrawHeld (fun _ => true) .restart).closeCursor).abortSense

/-- Every module load that owes nothing owes QUERY (R30, R163). -/
def queried (s : State) : State := s.moduleLoads.foldl State.oweQuery s

/-- Outside STARTING a census runs until no load is left to ask (R163). -/
theorem beginCensus_running (running : s.control.mode ≠ .starting) :
    s.beginCensus = { queried s with control := { (queried s).control with
      census := if s.moduleLoads = [] then none else some s.moduleLoads
      phase := if s.moduleLoads = [] then none else (queried s).control.phase } } := by
  have mode : (queried s).control.mode ≠ .starting := fun starting =>
    running ((acts_foldl_query s.moduleLoads s).mode.symm.trans starting)
  show ((queried s).setCensus s.moduleLoads).censusCheck = _
  unfold State.censusCheck
  simp only [setCensus_fields, if_neg mode]
  cases s.moduleLoads <;> rfl

theorem restartWarm_eq : s.restartWarm = (cleared s).recompute.beginCensus := rfl

theorem cleared_spec : (cleared s).control.mode = s.control.mode ∧ SameTables s (cleared s) ∧
    (cleared s).control.lastReset = .warmRestart ∧ (cleared s).control.storeValid = s.control.storeValid ∧
    (cleared s).mgmt.cursor = none ∧ (cleared s).hold = [] ∧ (cleared s).sense.slot = none := by
  have a := acts_withdrawHeld (s.recordReset .warmRestart) (fun _ => true) .restart
  have k := stays_withdrawHeld (s.recordReset .warmRestart) (fun _ => true) .restart
  obtain ⟨b, rests, slot⟩ :=
    abortSense_spec ((s.recordReset .warmRestart).withdrawHeld (fun _ => true) .restart).closeCursor
  have tables : SameTables s ((s.recordReset .warmRestart).withdrawHeld (fun _ => true) .restart).closeCursor :=
    (SameTables.trans (t := s.recordReset .warmRestart) { } (sameTables_of a k)).trans { }
  exact ⟨b.mode.trans a.mode, tables.trans (sameTables_of b rests), b.reset.trans a.reset, b.valid.trans a.valid,
    congrArg Management.cursor b.mgmt, rests.hold (hold_withdrawHeld_all ..), slot⟩

/-- The effects of an accepted WARM RESTART: all that it keeps, the record it leaves, what it empties and the census it
begins (R163). -/
theorem restartWarm_spec (running : s.control.mode ≠ .starting) :
    s.restartWarm.control.mode = s.control.mode ∧ SameTables s s.restartWarm ∧
    s.restartWarm.control.lastReset = .warmRestart ∧ s.restartWarm.control.storeValid = s.control.storeValid ∧
    s.restartWarm.mgmt.cursor = none ∧ s.restartWarm.hold = [] ∧ s.restartWarm.sense.slot = none ∧
    s.restartWarm.control.census = if s.moduleLoads = [] then none else some s.moduleLoads := by
  obtain ⟨mode, tables, reset, valid, cursor, hold, slot⟩ := cleared_spec s
  have a := acts_recompute (cleared s)
  have b : Acts (cleared s) (queried (cleared s).recompute) := a.trans (acts_foldl_query ..)
  have rests : Stays (cleared s) (queried (cleared s).recompute) :=
    (stays_recompute _).trans (stays_foldl (fun t n => stays_changeRun t n _) ..)
  have asked : (cleared s).recompute.moduleLoads = s.moduleLoads := moduleLoads_congr fun n =>
    (a.config n).trans (tables.config n)
  have recomputed : (cleared s).recompute.control.mode ≠ .starting := fun starting =>
    running (mode.symm.trans (a.mode.symm.trans starting))
  rw [restartWarm_eq, beginCensus_running _ recomputed, asked]
  exact ⟨b.mode.trans mode, (tables.trans (sameTables_of b rests)).trans { }, b.reset.trans reset,
    b.valid.trans valid, (congrArg Management.cursor b.mgmt).trans cursor, rests.hold hold, rests.slot slot, rfl⟩

end

/-! ### The two requests -/

section
variable {s : State} {src : Byte}

theorem restarting_heard :
    (s.heard .panel src).restarting = true ↔ s.control.mode = .starting ∨ s.control.census ≠ none := by
  have e := hearing_heard s .panel src
  simp [State.restarting, e.mode, e.census, Option.isSome_iff_ne_none]

/-- A write-kind request that is taken with no save in flight is answered behind its own effect (R148, R164). -/
theorem manage_answers {α : Type} {code : Byte} {length : Nat} {a : α} {act : α → State → State × Option Answer}
    {t : State} {answer : Answer} (k : s.TakesWrite src length) (free : s.mgmt.save = none)
    (r : act a (s.heard .panel src) = (t, some answer)) :
    s.manage src code length true (some a) (fun a u => u.unlessSaving (act a)) = t.answerManage src code answer := by
  rw [manage_takes _ k.1 fun _ => k, unlessSaving_free _ free, r]

/-- What SET MODE does once it is taken with no save in flight (R151). -/
theorem exec_setMode {mode : Byte} {m : Mode} (named : modeOfByte mode = some m) (k : s.TakesWrite src 2)
    (free : s.mgmt.save = none) :
    let h := s.heard .panel src
    (s.control.mode = .starting ∨ s.control.census ≠ none →
      exec (.setMode src mode) s = .next (h.withReply src [21, 4])) ∧
    (s.control.mode ≠ .starting → s.control.census = none → s.control.mode = m →
      exec (.setMode src mode) s = .next (h.withReply src [21, 0])) ∧
    (s.control.mode ≠ .starting → s.control.census = none → s.control.mode ≠ m →
      exec (.setMode src mode) s = .next ((h.changeMode m).answerManage src 21 { status := .ok })) := by
  intro h
  have e : Hearing s h := hearing_heard s .panel src
  have steady (running : s.control.mode ≠ .starting) (still : s.control.census = none) : ¬ h.restarting = true :=
    fun r => (restarting_heard.mp r).elim running (· still)
  simp only [exec, execSetMode, named]
  refine ⟨fun busy => ?_, fun running still same => ?_, fun running still other => ?_⟩
  · exact congrArg _ ((manage_answers k free (if_pos (restarting_heard.mpr busy))).trans (answerManage_room k.1.2))
  · exact congrArg _ ((manage_answers k free ((if_neg (steady running still)).trans
      (if_pos (e.mode.trans same)))).trans (answerManage_room k.1.2))
  · exact congrArg _ (manage_answers k free ((if_neg (steady running still)).trans
      (if_neg fun same => other (e.mode.symm.trans same))))

/-- What WARM RESTART does once it is taken with no save in flight (R163). -/
theorem exec_warmRestart (k : s.TakesWrite src 1) (free : s.mgmt.save = none) :
    let h := s.heard .panel src
    (s.control.mode = .starting ∨ s.control.census ≠ none →
      exec (.warmRestart src) s = .next (h.withReply src [23, 4])) ∧
    (s.control.mode ≠ .starting → s.control.census = none →
      exec (.warmRestart src) s = .next (h.restartWarm.answerManage src 23 { status := .ok })) := by
  intro h
  simp only [exec, execWarmRestart]
  refine ⟨fun busy => ?_, fun running still => ?_⟩
  · exact congrArg _ ((manage_answers k free (if_pos (restarting_heard.mpr busy))).trans (answerManage_room k.1.2))
  · exact congrArg _ (manage_answers k free (if_neg fun r => (restarting_heard.mp r).elim running (· still)))

end

/-- Settles O48: an accepted change of mode keeps the tables by `sameTables_changeMode`, and its law of the stack is that
of every step; a warm restart is `restartWarm_spec`. Their REPLY is told behind them. -/
theorem modeRequestsAndWarmRestart : Obligations.ModeRequestsAndWarmRestart := by
  unfold Obligations.ModeRequestsAndWarmRestart
  intro s src mode m named free h same
  have e : Hearing s h := hearing_heard s .panel src
  have kept {t : State} (k : SameTables h t) : same t :=
    ⟨k.settings.trans (congrArg _ e.mgmt), k.live.trans (congrArg _ e.ladder), k.meter.trans e.meter,
      k.watches.trans e.watches, k.map.trans (congrArg _ e.loads), k.draft.trans (congrArg _ e.ladder), k.sides,
      fun n => (k.drafts n).trans (congrArg Slot.draft (slot_heard n)), fun n => (k.config n).trans (congrArg _ (e.live n))⟩
  refine ⟨fun k => ?_, fun k => ?_⟩
  · obtain ⟨busy, already, changes⟩ := exec_setMode named k free
    refine ⟨busy, already, fun lawful running still other => ?_⟩
    have told := talk_answerManage (h.changeMode m) src 21 { status := .ok }
    have changed := changes running still other
    have into : ((h.changeMode m).answerManage src 21 { status := .ok }).control.mode = m := by
      rw [told.control]; exact (acts_changeMode h m).mode
    refine ⟨_, changed, into, kept ((sameTables_changeMode h m).trans (sameTables_talk told)), fun bypass => ?_⟩
    exact List.map_eq_nil_iff.mp ((keeps_execSetMode src mode lawful changed).stack.bypass (into.trans bypass))
  · obtain ⟨busy, restarts⟩ := exec_warmRestart k free
    refine ⟨busy, fun running still => ?_⟩
    have told := talk_answerManage h.restartWarm src 23 { status := .ok }
    obtain ⟨mode, tables, reset, valid, cursor, hold, slot, census⟩ :=
      restartWarm_spec h (fun starting => running (e.mode.symm.trans starting))
    refine ⟨_, restarts running still, ?_, kept (tables.trans (sameTables_talk told)), ?_, ?_, ?_, ?_, ?_, ?_⟩
    · rw [told.control, mode, e.mode]
    · rw [told.control, reset]
    · rw [told.control, valid, e.storeValid]
    · rw [told.mgmt, cursor]
    · rw [told.hold, hold]
    · rw [told.sense, slot]
    · have asked : h.moduleLoads = s.moduleLoads := moduleLoads_congr fun n => congrArg _ (e.live n)
      rw [told.control, census, asked]

end Sys2Proof.LineProofs

namespace Sys2Proof.ManageProofs

open Sys2Proof.Machine Sys2Proof.Laws Sys2Proof.TableProofs Sys2Proof.LineProofs

/-! ### The values of the settings -/

theorem sourceOk_iff (b : Byte) : sourceOk b = true ↔ 1 ≤ b.toNat ∧ b.toNat ≤ 62 := by
  simp [sourceOk]

/-- The settings of one byte, each with the numbers it takes (R166). -/
theorem write_number (st : Settings) {v : Byte} {k : Nat} (spelt : v.toNat = k) :
    (1 ≤ k ∧ k ≤ 62 → st.write 1 [v] = some { st with nodeAddress := k } ∧
      st.write 2 [v] = some { st with monitorNode := k }) ∧
    (2 ≤ k ∧ k ≤ 50 → st.write 4 [v] = some { st with answerTimeout := k }) ∧
    (1 ≤ k ∧ k ≤ 60 → st.write 5 [v] = some { st with staleTimeout := k }) ∧
    (k ≤ 240 → st.write 6 [v] = some { st with holdLifetime := k }) := by
  subst spelt
  exact ⟨fun range => ⟨if_pos ((sourceOk_iff v).mpr range), if_pos ((sourceOk_iff v).mpr range)⟩,
    fun range => if_pos range, fun range => if_pos range, fun range => if_pos range⟩

/-- A manager list of four addresses is taken when no address stands in it twice (R165, R166). -/
theorem write_managers (st : Settings) {a b c d : Byte} {places : List Nat}
    (spelt : [a, b, c, d].map BitVec.toNat = places) (range : ∀ k ∈ places, k ≤ 62) (once : noRepeats places = true) :
    st.write 3 [a, b, c, d] = some { st with managers := places } := by
  subst spelt
  exact if_pos (Bool.and_eq_true_iff.mpr ⟨List.all_eq_true.mpr fun k hk => decide_eq_true (range k hk), once⟩)

theorem write_preWarning (st : Settings) {hi lo : Byte} {k : Nat} (spelt : num16 hi lo = k)
    (range : 60 ≤ k ∧ k ≤ 300) : st.write 7 [hi, lo] = some { st with preWarning := k } := by
  subst spelt
  exact if_pos range

theorem write_startMode (st : Settings) {m : Mode} (operating : m ≠ .starting) :
    st.write 8 [byte m.code] = some { st with startMode := m } := by
  cases m
  case starting => exact absurd rfl operating
  all_goals rfl

/-- A setting that is read is one of the eight, and its value is that setting's (R166, R185). -/
theorem read_setting {st : Settings} {code : Byte} {value : List Byte} (read : st.read code = some value) :
    (code = 1 ∧ value = [byte st.nodeAddress]) ∨ (code = 2 ∧ value = [byte st.monitorNode]) ∨
    (code = 3 ∧ value = st.managers.map byte) ∨ (code = 4 ∧ value = [byte st.answerTimeout]) ∨
    (code = 5 ∧ value = [byte st.staleTimeout]) ∨ (code = 6 ∧ value = [byte st.holdLifetime]) ∨
    (code = 7 ∧ value = word16 st.preWarning) ∨ (code = 8 ∧ value = [byte st.startMode.code]) := by
  have named {k : Nat} (h : code.toNat = k) : code = byte k := by rw [← h, byte_toNat]
  unfold Settings.read at read
  split at read <;> cases read
  · exact .inl ⟨named ‹_›, rfl⟩
  · exact .inr (.inl ⟨named ‹_›, rfl⟩)
  · exact .inr (.inr (.inl ⟨named ‹_›, rfl⟩))
  · exact .inr (.inr (.inr (.inl ⟨named ‹_›, rfl⟩)))
  · exact .inr (.inr (.inr (.inr (.inl ⟨named ‹_›, rfl⟩))))
  · exact .inr (.inr (.inr (.inr (.inr (.inl ⟨named ‹_›, rfl⟩)))))
  · exact .inr (.inr (.inr (.inr (.inr (.inr (.inl ⟨named ‹_›, rfl⟩))))))
  · exact .inr (.inr (.inr (.inr (.inr (.inr (.inr ⟨named ‹_›, rfl⟩))))))

/-- Bytes that are written from numbers below 256 spell them. -/
theorem map_toNat_byte {places : List Nat} (range : ∀ k ∈ places, k ≤ 62) :
    (places.map byte).map BitVec.toNat = places := by
  rw [List.map_map]
  refine (List.map_congr_left fun k hk => ?_).trans (List.map_id places)
  have small := range k hk
  exact toNat_byte (by omega)

/-- The four places that READ SETTING gives are taken, and kept as they stand (R165, R166). -/
theorem write_managers_read (other : Settings) {st : Settings} (lawful : st.Lawful) :
    other.write 3 (st.managers.map byte) = some { other with managers := st.managers } := by
  obtain ⟨four, range, once⟩ := lawful.managers
  have spelt := map_toNat_byte range
  match places : st.managers.map byte, (List.length_map byte).trans four with
  | [a, b, c, d], _ => exact write_managers other (places ▸ spelt) range once

/-- Settles O8: each of the eight values READ SETTING can give lies in the range WRITE SETTING asks for, and its bytes
spell the setting. -/
theorem settingValueRoundTrip : Obligations.SettingValueRoundTrip := by
  unfold Obligations.SettingValueRoundTrip
  intro st other code value lawful read
  rcases read_setting read with h | h | h | h | h | h | h | h
  all_goals obtain ⟨rfl, rfl⟩ := h
  · have range := lawful.nodeAddress
    exact ⟨_, ((write_number other (toNat_byte (by omega))).1 range).1, rfl⟩
  · have range := lawful.monitorNode
    exact ⟨_, ((write_number other (toNat_byte (by omega))).1 range).2, rfl⟩
  · exact ⟨_, write_managers_read other lawful, rfl⟩
  · have range := lawful.answerTimeout
    exact ⟨_, (write_number other (toNat_byte (by omega))).2.1 range, rfl⟩
  · have range := lawful.staleTimeout
    exact ⟨_, (write_number other (toNat_byte (by omega))).2.2.1 range, rfl⟩
  · have range := lawful.holdLifetime
    exact ⟨_, (write_number other (toNat_byte (by omega))).2.2.2 range, rfl⟩
  · have range := lawful.preWarning
    exact ⟨_, write_preWarning other (num16_word16 (by omega)) range, rfl⟩
  · exact ⟨_, write_startMode other lawful.startMode, rfl⟩

/-! ### WRITE SETTING -/

/-- The places of a manager list that is written repeat no address exactly when the nodes it names are different
(R165). -/
theorem noRepeats_iff (places : List Byte) :
    noRepeats (places.map BitVec.toNat) = true ↔ (places.filter (· ≠ 0)).Nodup := by
  induction places with
  | nil => exact ⟨fun _ => List.nodup_nil, fun _ => rfl⟩
  | cons a rest ih =>
    have unused_iff : a.toNat = 0 ↔ a = 0 := by rw [← BitVec.toNat_inj]; rfl
    have listed_iff : a.toNat ∈ rest.map BitVec.toNat ↔ a ∈ rest := by simp [BitVec.toNat_inj]
    have place : (a.toNat == 0 || !(rest.map BitVec.toNat).contains a.toNat) = true ↔ a = 0 ∨ a ∉ rest := by
      rw [Bool.or_eq_true, beq_iff_eq, unused_iff, Bool.not_eq_true', ← Bool.not_eq_true, List.contains_iff_mem,
        listed_iff]
    rw [List.map_cons, noRepeats, Bool.and_eq_true, place, ih]
    by_cases unused : a = 0
    · rw [List.filter_cons_of_neg (by simpa using unused)]
      exact and_iff_right (.inl unused)
    · rw [List.filter_cons_of_pos (by simpa using unused), List.nodup_cons, List.mem_filter]
      simp only [unused, false_or, ne_eq, not_false_eq_true, decide_true, and_true]

/-- A taken WRITE SETTING whose value passes replaces the settings by those written, before its REPLY is built
(R166). -/
theorem exec_writeSetting {s : State} {src code : Byte} {value : List Byte} {st : Settings}
    (k : s.TakesWrite src (2 + value.length)) (free : s.mgmt.save = none)
    (written : s.mgmt.settings.write code value = some st) :
    exec (.writeSetting src code value) s = .next (({ s.heard .panel src with
      mgmt := { s.mgmt with settings := st } } : State).withReply src [13, 0]) := by
  have put : ({ s.heard .panel src with mgmt := { s.mgmt with settings := st } } : State) =
      (s.heard .panel src).setSettings st := by
    rw [← (hearing_heard s .panel src).mgmt]
    rfl
  rw [put]
  simp only [exec, execWriteSetting, written]
  exact congrArg _ (manage_does k.1 (fun _ => k) (unlessSaving_free _ free) rfl)

/-- Settles O19: `exec_writeSetting` for each of the eight, whose values pass by the lemmas above. -/
theorem writeSettingReplacesTheSetting : Obligations.WriteSettingReplacesTheSetting := by
  unfold Obligations.WriteSettingReplacesTheSetting
  intro s src free h st put
  refine ⟨fun v k => ?_, fun a b c d k range once => ?_, fun hi lo k low high => ?_⟩
  · obtain ⟨addresses, answer, stale, lifetime⟩ := write_number st (v := v) rfl
    refine ⟨fun low high => ?_, fun low high => ?_, fun low high => ?_, fun high => ?_, ?_, ?_, ?_⟩
    · obtain ⟨node, monitor⟩ := addresses ⟨low, high⟩
      exact ⟨exec_writeSetting k free node, exec_writeSetting k free monitor⟩
    · exact exec_writeSetting k free (answer ⟨low, high⟩)
    · exact exec_writeSetting k free (stale ⟨low, high⟩)
    · exact exec_writeSetting k free (lifetime high)
    · exact exec_writeSetting k free (write_startMode st (m := .governing) nofun)
    · exact exec_writeSetting k free (write_startMode st (m := .bypass) nofun)
    · exact exec_writeSetting k free (write_startMode st (m := .storage) nofun)
  · exact exec_writeSetting k free (write_managers st (places := [a, b, c, d].map BitVec.toNat) rfl
      (List.forall_mem_map.mpr range) ((noRepeats_iff _).mpr once))
  · exact exec_writeSetting k free (write_preWarning st rfl ⟨low, high⟩)

end Sys2Proof.ManageProofs

namespace Sys2Proof.ManageProofs

open Sys2Proof.Machine Sys2Proof.Laws Sys2Proof.TableProofs Sys2Proof.LadderProofs Sys2Proof.LineProofs

/-! ### SAVE, and what a save in flight refuses -/

section
variable {s : State} {src : Byte}

/-- The command is taken as the MANAGE request `r`, by the arguments of its layout, and every state with a save in
flight refuses its effect BUSY (R164). -/
def TakenUnlessSaving (s : State) (c : Instr) (r : Request) : Prop :=
  ∃ (α : Type) (args : Option α) (act : α → State → State × Option Answer),
    exec c s = .next (s.manage r.src r.code r.length r.write args act) ∧ args.isSome = s.argumentsOk c ∧
    ∀ a u, u.mgmt.save.isSome = true → act a u = u.refuse .busy

/-- The requests that change what a save writes are those whose effects `State.unlessSaving` guards (R164). -/
theorem takenUnlessSaving_request {c : Instr} {r : Request} (hr : requestOf c = some r)
    (guarded : refusedWhileSaving c = true) (source : sourceOk r.src = true) : TakenUnlessSaving s c r := by
  cases c <;> cases guarded <;> cases hr
  all_goals
    replace source : sourceOk _ = true := source
    refine ⟨_, _, _, rfl, ?_, fun _ _ saving => if_pos saving⟩
    simp only [State.argumentsOk, Instr.wellFormed, source, Bool.true_and, Option.isSome_some, isSome_loadOfByte,
      isSome_mapArgs, isSome_modeOfByte]

/-- SAVE asks whether LOAD has ended, and then whether a save is in flight (R174). -/
theorem exec_save (k : s.TakesWrite src 1) :
    let h := s.heard .panel src
    (s.beforeLoadEnds = true → exec (.save src) s = .next (h.withReply src [22, 9])) ∧
    (s.beforeLoadEnds = false → s.mgmt.save ≠ none → exec (.save src) s = .next (h.withReply src [22, 4])) ∧
    (s.beforeLoadEnds = false → s.mgmt.save = none → exec (.save src) s = .next (h.beginSave src.toNat)) := by
  intro h
  have early : h.beforeLoadEnds = s.beforeLoadEnds := by
    unfold State.beforeLoadEnds
    rw [(hearing_heard s .panel src).phase]
  refine ⟨fun soon => ?_, fun late saving => ?_, fun late free => ?_⟩
  · exact congrArg _ (manage_refuses (status := .notReady) k.1 (fun _ => k) (if_pos (early.trans soon)))
  · refine congrArg _ (manage_refuses (status := .busy) k.1 (fun _ => k) ?_)
    exact (if_neg (by rw [early, late]; exact Bool.false_ne_true)).trans (unlessSaving_busy _ saving)
  · refine congrArg _ ((manage_takes _ k.1 fun _ => k).trans ?_)
    rw [if_neg (by rw [early, late]; exact Bool.false_ne_true), unlessSaving_free _ free]

/-- LOAD has ended when the phase is neither SETTLE nor LOAD (R34). -/
theorem loadEnded (settled : s.control.phase ≠ some .settle) (loaded : s.control.phase ≠ some .load) :
    s.beforeLoadEnds = false :=
  Bool.eq_false_iff.mpr fun early => ((beforeLoadEnds_iff s).mp early).elim settled loaded

end

/-- Settles O14: `takenUnlessSaving_request` for the requests R164 lists, and `exec_save` for SAVE itself. -/
theorem requestsRefusedBusyWhileSaving : Obligations.RequestsRefusedBusyWhileSaving := by
  unfold Obligations.RequestsRefusedBusyWhileSaving
  intro s c r hr k saving
  refine ⟨fun guarded good => ?_, ?_⟩
  · have source : sourceOk r.src = true := (Bool.and_eq_true_iff.mp k.1.1.2.1).1
    obtain ⟨α, args, act, taken, parses, busy⟩ := takenUnlessSaving_request (s := s) hr guarded source
    obtain ⟨a, rfl⟩ := Option.isSome_iff_exists.mp (parses.trans good)
    refine taken.trans (congrArg _ (manage_refuses (status := .busy) k.1 (fun _ => k) (busy a _ ?_)))
    rw [(hearing_heard s .panel r.src).mgmt, saving]
  · rintro src rfl settled loaded
    cases hr
    exact (exec_save k).2.1 (loadEnded settled loaded) (Option.isSome_iff_ne_none.mp saving)

/-- Settles O22: the REPLY of a save that ends is told behind the store it leaves, and a SAVE is `exec_save`. -/
theorem saveTakesAndStoresTheContent : Obligations.SaveTakesAndStoresTheContent := by
  unfold Obligations.SaveTakesAndStoresTheContent
  refine ⟨?_, ?_⟩
  · intro s op copyMatches saving t
    have ends : exec (.saveComplete copyMatches) s =
        .next (t.answerManage (byte op.node) 22 { status := if copyMatches then .ok else .storeFail }) := by
      simp only [exec, execSaveComplete, saving]
      rfl
    refine ⟨fun room => ?_, fun full => ?_⟩
    · rw [ends, answerManage_room (s := t) room]
      cases copyMatches <;> rfl
    · exact ends.trans (congrArg _ (if_neg (Nat.not_lt.mpr full)))
  · intro s src k h
    obtain ⟨early, -, accepted⟩ := exec_save k
    refine ⟨fun soon => early ((beforeLoadEnds_iff s).mpr soon), fun settled loaded free => ?_⟩
    have e : Hearing s h := hearing_heard s .panel src
    rw [accepted (loadEnded settled loaded) free]
    simp only [State.beginSave, State.content, h, e.mgmt, e.loads, e.ladder, e.watches]

end Sys2Proof.ManageProofs

namespace Sys2Proof.ManageProofs

open Sys2Proof.Machine Sys2Proof.Laws Sys2Proof.TableProofs Sys2Proof.LineProofs

/-! ### A body that names no request -/

section
variable (s : State)

/-! Hearing a frame does not look at the count of free choices, so a choice may be counted before or after it. -/

theorem raise_chosen (c : Cause) : s.chosen.raise c = (s.raise c).chosen := by
  simp only [State.raise, State.announce, apply_ite State.chosen]
  rfl

theorem converterNext_chosen : s.chosen.converterNext = s.converterNext.chosen := by
  simp only [State.converterNext, chosen_fields]
  repeat' split
  all_goals rfl

theorem roundDue_chosen : s.chosen.roundDue = s.roundDue.chosen := by
  simp only [State.roundDue, chosen_fields]
  split
  · exact converterNext_chosen s.startRound
  · rfl

theorem endDoze_chosen : s.chosen.endDoze = s.endDoze.chosen := by
  simp only [State.endDoze, chosen_fields, apply_ite State.chosen, ← roundDue_chosen]
  rfl

theorem lineActivity_chosen : s.chosen.lineActivity = s.lineActivity.chosen := by
  simp only [State.lineActivity, chosen_fields, apply_ite State.chosen, endDoze_chosen]
  rfl

theorem learn_chosen (line : Line) (src : Nat) : s.chosen.learn line src = (s.learn line src).chosen := by
  simp only [State.learn, apply_ite State.chosen, ← raise_chosen]
  rfl

theorem heard_chosen (line : Line) (src : Byte) : s.chosen.heard line src = (s.heard line src).chosen := by
  unfold State.heard
  rw [lineActivity_chosen, learn_chosen]

end

theorem takes_chosen {s : State} {src : Byte} {length : Nat} (k : s.Takes src length) : s.chosen.Takes src length :=
  ⟨k.1, by rw [heard_chosen]; exact k.2⟩

/-- Settles O15: a body that names no request has no arguments that parse; an empty one counts the choice of the code
first, which its hearing leaves alone. -/
theorem unknownRequestIsAnsweredBadArg : Obligations.UnknownRequestIsAnsweredBadArg := by
  unfold Obligations.UnknownRequestIsAnsweredBadArg
  intro s src body k unnamed
  have refused : exec (.manageUnknownRequest src body) s = .next (s.refuseUnknown src body) := by
    simp only [exec, execManageUnknownRequest, if_pos unnamed]
  refine ⟨?_, ?_⟩
  · rintro code rest rfl
    rw [refused, State.refuseUnknown, manage_badArg _ k]
  · rintro rfl
    refine ⟨Config.unstatedCode s.choices, ?_⟩
    have empty : s.chosen.Takes src 0 := takes_chosen k
    rw [refused, State.refuseUnknown, manage_badArg _ empty, heard_chosen, ← (hearing_heard s .panel src).choices]
    rfl

/-! ### Reads -/

/-- What READ MAP gives for an entry: its load number with bit 6 set when it is live, or 255 (R169). -/
theorem mapByte_eq (s : State) (e : Option LoadNo) : s.mapByte e =
    match e with
    | none => 255
    | some n => byte (n.val + if (s.live? n).isSome then 64 else 0) := by
  rcases e with _ | n
  · rfl
  · cases live : s.live? n <;> simp [State.mapByte, bit, live]

/-- A READ MAP that is taken answers the entries from its channel on, as many as one REPLY carries (R169). -/
theorem exec_readMap {s : State} {src start : Byte} (k : s.Takes src 2) (range : start.toNat ≤ 127) :
    exec (.readMap src start) s = .next ((s.heard .panel src).withReply src
      ([7, 0] ++ ((s.loads.map.toList.drop start.toNat).take 8).map s.mapByte)) := by
  have e := hearing_heard s .panel src
  have same : (s.heard .panel src).mapByte = s.mapByte := by
    funext entry
    simp only [mapByte_eq, live?_heard]
  simp only [exec, execReadMap, if_pos range]
  refine congrArg _ (Eq.trans (manage_does k nofun rfl rfl) ?_)
  rw [e.loads, same]
  rfl

/-- A READ SETTING that is taken answers the code and the value it names (R166). -/
theorem exec_readSetting {s : State} {src code : Byte} {value : List Byte} (k : s.Takes src 2)
    (read : s.mgmt.settings.read code = some value) :
    exec (.readSetting src code) s = .next ((s.heard .panel src).withReply src ([14, 0, code] ++ value)) := by
  simp only [exec, execReadSetting, read]
  exact congrArg _ (manage_does k nofun rfl rfl)

/-- Settles O17: `exec_readMap` and, for each of the eight settings, `exec_readSetting`. -/
theorem mapAndSettingsAreRead : Obligations.MapAndSettingsAreRead := by
  unfold Obligations.MapAndSettingsAreRead
  intro s src k h st
  have setting {code : Byte} {value : List Byte} (read : st.read code = some value) := exec_readSetting k read
  refine ⟨fun start range => ?_, fun start beyond => ?_, setting rfl, setting rfl, setting rfl, setting rfl,
    setting rfl, setting rfl, setting rfl, setting rfl⟩
  · rw [exec_readMap k range, funext (mapByte_eq s)] <;> rfl
  · simp only [exec, execReadMap, if_neg (Nat.not_le.mpr beyond)]
    exact congrArg _ (manage_badArg _ k)

/-- The three bytes of the committed draw, high byte first (R182, R186). -/
theorem word16_low (k : Nat) : word16 (k % 65536) = [byte (k / 256 % 256), byte (k % 256)] := by
  have high : k % 65536 / 256 = k / 256 % 256 := by omega
  have low : k % 65536 % 256 = k % 256 := by omega
  rw [word16, high, low]

/-- The status record is the same before its request is heard and after, the attention summary aside: hearing can
raise NODE_CONFLICT (R138, R170). -/
theorem statusRecord_heard (s : State) (src : Byte) : (s.heard .panel src).statusRecord =
    [byte (s.control.mode.code + 4 * phaseCode s.control.phase + 16 * bit s.control.census.isSome),
      byte s.ladder.active.val] ++ word16 s.word.toNat ++ (byte (s.draw / 65536) :: word16 (s.draw % 65536))
      ++ word16 (s.meter.discharge.getD 65535) ++ [byte s.ladder.stack.length, byte s.hold.length]
      ++ word16 ((s.heard .panel src).summary (·.pending)) := by
  have e := hearing_heard s .panel src
  have word : (s.heard .panel src).word = s.word := by
    unfold State.word State.signal
    rw [e.watches, e.meter, e.ladder, e.last]
  rw [State.statusRecord, word, e.draw, e.mode, e.phase, e.census, e.ladder, e.meter, e.hold]

/-- READ STATUS and READ RESET CAUSE, taken, answer the records of the state the request meets (R170). -/
theorem exec_readRecords {s : State} {src : Byte} (k : s.Takes src 1) :
    let h := s.heard .panel src
    exec (.readStatus src) s = .next (h.withReply src ([15, 0] ++ h.statusRecord)) ∧
    exec (.readResetCause src) s = .next (h.withReply src
      [16, 0, byte h.control.lastReset.code, byte (bit h.control.storeValid)]) := by
  simp only [exec, execReadStatus, execReadResetCause]
  exact ⟨congrArg _ (manage_does k nofun rfl rfl), congrArg _ (manage_does k nofun rfl rfl)⟩

/-- Settles O18: the status record is `statusRecord_heard`, and hearing keeps the reset cause record. -/
theorem statusAndResetCauseAreReturned : Obligations.StatusAndResetCauseAreReturned := by
  unfold Obligations.StatusAndResetCauseAreReturned
  intro s src k h
  have e : Hearing s h := hearing_heard s .panel src
  obtain ⟨status, reset⟩ := exec_readRecords k
  refine ⟨?_, ?_⟩
  · have measured : s.meter.discharge.getD 65535 =
        match s.meter.current with | some c => (-c).toNat | none => 65535 := by
      unfold MeterTap.discharge
      cases s.meter.current <;> rfl
    rw [status, statusRecord_heard, measured, word16_low]
    rfl
  · rw [reset, e.lastReset, e.storeValid]
    cases s.control.lastReset <;> cases s.control.storeValid <;> rfl

end Sys2Proof.ManageProofs

namespace Sys2Proof.ManageProofs

open Sys2Proof.Machine Sys2Proof.Laws Sys2Proof.TableProofs Sys2Proof.LineProofs

/-! ### The dump cursor -/

section
variable {s : State} {src : Byte}

/-- A DUMP OPEN whose arguments parse opens the cursor for its sender, whoever held it (R172). -/
theorem exec_dumpOpen {collection start : Byte} {c : Collection} (k : s.Takes src 3)
    (named : dumpArgs collection start = some (c, start.toNat)) :
    exec (.dumpOpen src collection start) s =
      .next (({ s.heard .panel src with mgmt := { s.mgmt with cursor := some ⟨src.toNat, c, start.toNat⟩ } } :
        State).withReply src [17, 0, byte (s.recordCount c)]) := by
  have e := hearing_heard s .panel src
  have count : (s.heard .panel src).recordCount c = s.recordCount c := by
    unfold State.recordCount
    rw [e.ladder, e.hold]
  simp only [exec, execDumpOpen, named, ← count, ← e.mgmt]
  exact congrArg _ (manage_does k nofun rfl rfl)

/-- The arguments of DUMP OPEN that parse, one collection at a time (R172, R185). -/
theorem dumpArgs_of (start : Byte) :
    (start.toNat ≤ 47 → dumpArgs 1 start = some (.stack, start.toNat)) ∧
    (start.toNat ≤ 15 → dumpArgs 2 start = some (.queue, start.toNat)) ∧
    (start.toNat ≤ 47 → dumpArgs 3 start = some (.loads, start.toNat)) ∧
    (1 ≤ start.toNat → start.toNat ≤ 62 → dumpArgs 4 start = some (.nodes, start.toNat)) :=
  ⟨fun range => if_pos (decide_eq_true range), fun range => if_pos (decide_eq_true range),
    fun range => if_pos (decide_eq_true range),
    fun low high => if_pos (Bool.and_eq_true_iff.mpr ⟨decide_eq_true low, decide_eq_true high⟩)⟩

/-- No collection is defined but the four, and each has its range of indices (R171, R172). -/
theorem dumpArgs_eq_none {collection start : Byte}
    (bad : collection = 0 ∨ 4 < collection.toNat ∨ (collection = 1 ∧ 47 < start.toNat) ∨
      (collection = 2 ∧ 15 < start.toNat) ∨ (collection = 3 ∧ 47 < start.toNat) ∨
      (collection = 4 ∧ (start = 0 ∨ 62 < start.toNat))) : dumpArgs collection start = none := by
  refine if_neg (Bool.not_eq_true _ ▸ ?_)
  rcases bad with rfl | undefined | ⟨rfl, beyond⟩ | ⟨rfl, beyond⟩ | ⟨rfl, beyond⟩ | ⟨rfl, outside⟩
  · rfl
  · have ne (k : Byte) (small : k.toNat ≤ 4) : collection ≠ k := by rintro rfl; omega
    simp only [dumpIndexOk, ne 1 (by decide), ne 2 (by decide), ne 3 (by decide), ne 4 (by decide), or_self, if_false]
  · exact decide_eq_false (Nat.not_le.mpr beyond)
  · exact decide_eq_false (Nat.not_le.mpr beyond)
  · exact decide_eq_false (Nat.not_le.mpr beyond)
  · refine Bool.and_eq_false_iff.mpr (outside.imp ?_ fun beyond => decide_eq_false (Nat.not_le.mpr beyond))
    rintro rfl
    rfl

/-- What a dump request that needs the cursor meets: none, another node's, or its own (R172). -/
theorem withCursor_cases (act : Cursor → State × Option Answer) :
    let h := s.heard .panel src
    (s.mgmt.cursor = none → h.withCursor src act = h.refuse .notFound) ∧
    ∀ c, s.mgmt.cursor = some c →
      (c.owner ≠ src.toNat → h.withCursor src act = h.refuse .denied) ∧
      (c.owner = src.toNat → h.withCursor src act = act c) := by
  intro h
  have cursor : h.mgmt.cursor = s.mgmt.cursor := congrArg _ (hearing_heard s .panel src).mgmt
  refine ⟨fun closed => ?_, fun c opened => ⟨fun other => ?_, fun owner => ?_⟩⟩
  · simp only [State.withCursor, cursor, closed]
  · simp only [State.withCursor, cursor, opened, if_neg other]
  · simp only [State.withCursor, cursor, opened, if_pos owner]

/-- DUMP NEXT and DUMP CLOSE are refused alike where the cursor is not their sender's (R172). -/
theorem exec_withoutCursor {status : Status} (k : s.Takes src 1) (refused : ∀ act,
      (s.heard .panel src).withCursor src act = (s.heard .panel src).refuse status) :
    exec (.dumpNext src) s = .next ((s.heard .panel src).withReply src [18, byte status.code]) ∧
    exec (.dumpClose src) s = .next ((s.heard .panel src).withReply src [19, byte status.code]) := by
  simp only [exec, execDumpNext, execDumpClose]
  exact ⟨congrArg _ (manage_refuses k nofun (refused _)), congrArg _ (manage_refuses k nofun (refused _))⟩

/-! ### The records a DUMP NEXT returns -/

/-- The offsets of a REPLY's records that lie before the end of a collection are the first ones (R173). -/
theorem filter_range_before (next beyond carried : Nat) :
    (List.range carried).filter (fun k => next + k < beyond) = List.range (min carried (beyond - next)) := by
  induction carried with
  | zero => rw [Nat.zero_min]; rfl
  | succ carried ih =>
    rw [List.range_succ, List.filter_append, ih]
    by_cases before : next + carried < beyond
    · have all : min carried (beyond - next) = carried := by omega
      have more : min (carried + 1) (beyond - next) = carried + 1 := by omega
      rw [List.filter_cons_of_pos (by simpa using before), all, more, List.range_succ]
      rfl
    · have same : min (carried + 1) (beyond - next) = min carried (beyond - next) := by omega
      rw [List.filter_cons_of_neg (by simpa using before), same]
      exact List.append_nil _

/-- How many records the next DUMP NEXT of a cursor returns: as many as stand and one REPLY carries (R173). -/
def dumpCount (s : State) (c : Cursor) : Nat :=
  min c.collection.perReply (s.endIndex c.collection - c.next)

theorem dumpIndices_eq (s : State) (c : Cursor) :
    s.dumpIndices c = (List.range (dumpCount s c)).map (c.next + ·) := by
  unfold State.dumpIndices dumpCount
  rw [List.filter_map, ← filter_range_before]
  rfl

theorem endIndex_heard (c : Collection) : (s.heard .panel src).endIndex c = s.endIndex c := by
  have e := hearing_heard s .panel src
  unfold State.endIndex
  rw [e.ladder, e.hold]

/-- The owner's DUMP NEXT, taken, returns the records from the next index on with the end mark, and moves the cursor
behind them (R173). -/
theorem exec_dumpNext {c : Cursor} (k : s.Takes src 1) (opened : s.mgmt.cursor = some c) (owner : c.owner = src.toNat) :
    let h := s.heard .panel src
    let count := dumpCount s c
    exec (.dumpNext src) s = .next (({ h with
      mgmt := { s.mgmt with cursor := some { c with next := c.next + count } } } : State).withReply src
        ([18, 0, byte (count + 128 * bit (s.endIndex c.collection ≤ c.next + count))]
          ++ (List.range count).flatMap fun i => h.dumpRecord c.collection (c.next + i))) := by
  intro h count
  have e : Hearing s h := hearing_heard s .panel src
  have counted : dumpCount h c = count := by
    unfold dumpCount
    rw [endIndex_heard]
    rfl
  have effect : h.withCursor src h.dumpNext = (h.setCursor (some { c with next := c.next + count })).done
      (byte (count + 128 * bit (s.endIndex c.collection ≤ c.next + count)) ::
        (List.range count).flatMap fun i => h.dumpRecord c.collection (c.next + i)) := by
    rw [((withCursor_cases h.dumpNext).2 c opened).2 owner]
    unfold State.dumpNext
    simp only [dumpIndices_eq, counted, List.length_map, List.length_range, List.flatMap_map, endIndex_heard, h]
  simp only [exec, execDumpNext, ← e.mgmt]
  exact congrArg _ (manage_does k nofun effect rfl)

end

/-- Settles O20: `exec_dumpOpen` where the arguments parse, `withCursor_cases` for NEXT and CLOSE. -/
theorem dumpCursorIsOpenedAndClosed : Obligations.DumpCursorIsOpenedAndClosed := by
  unfold Obligations.DumpCursorIsOpenedAndClosed
  intro s src h put
  have e : Hearing s h := hearing_heard s .panel src
  refine ⟨fun start k => ?_, fun k => ⟨fun closed => ?_, fun c opened => ⟨fun other => ?_, fun owner => ⟨?_, ?_⟩⟩⟩⟩
  · obtain ⟨stack, queue, loads, nodes⟩ := dumpArgs_of start
    refine ⟨fun range => exec_dumpOpen k (stack range), fun range => exec_dumpOpen k (queue range),
      fun range => exec_dumpOpen k (loads range), fun low high => exec_dumpOpen k (nodes low high),
      fun collection bad => ?_⟩
    simp only [exec, execDumpOpen, dumpArgs_eq_none bad]
    exact congrArg _ (manage_badArg _ k)
  · exact exec_withoutCursor (status := .notFound) k fun act => (withCursor_cases act).1 closed
  · exact exec_withoutCursor (status := .denied) k fun act => ((withCursor_cases act).2 c opened).1 other
  · simp only [exec, execDumpClose, put, ← e.mgmt]
    exact congrArg _ (manage_does k nofun (((withCursor_cases _).2 c opened).2 owner) rfl)
  · exact ⟨_, exec_dumpNext k opened owner⟩

/-! ### The bytes of the records -/

/-- The condition byte of a LOADS record is the sum of its bits (R186). -/
theorem condition_eq (draft live held stacked : Bool) :
    bit draft + 2 * bit live + 64 * bit held + 128 * bit stacked =
      (if draft then 1 else 0) + (if live then 2 else 0) + (if held then 64 else 0) + if stacked then 128 else 0 := by
  cases draft <;> cases live <;> cases held <;> cases stacked <;> rfl

/-- A LOADS record from the slot's own parts (R186). -/
theorem dumpRecord_loads (s : State) (n : LoadNo) : s.dumpRecord .loads n.val = [byte n.val,
    byte ((if s.loads.slots[n].draft.isSome then 1 else 0) + (if (s.live? n).isSome then 2 else 0)
      + (if s.isHeld n then 64 else 0) + if s.stacked n then 128 else 0),
    byte ((s.state? n).elim 0 LoadState.code)] := by
  have state : (s.live? n).elim 0 (·.run.state.code) = (s.state? n).elim 0 LoadState.code := by
    unfold State.state?
    cases s.live? n <;> rfl
  rw [← condition_eq, ← state]
  exact dif_pos n.isLt

/-- Whole minutes of a remaining time, rounded up (R186). -/
theorem ceilDiv_minutes (ms : Nat) : ceilDiv ms 60000 = (ms + 59999) / 60000 := by simp [ceilDiv]

theorem elim_eq_match (t : Option Nat) (f : Nat → Nat) :
    t.elim 0 f = match t with | none => 0 | some ms => f ms := by cases t <;> rfl

/-- The record of an entry that stands is the entry's own (R173, R186). -/
theorem dumpRecord_entry (s : State) (i : Nat) :
    (∀ e, s.ladder.stack[i]? = some e → s.dumpRecord .stack i = e.record) ∧
    ∀ q, s.hold[i]? = some q → s.dumpRecord .queue i = q.record := by
  refine ⟨fun e stands => ?_, fun q stands => ?_⟩
  all_goals
    unfold State.dumpRecord
    simp only [stands, Option.elim_some]

/-- Settles O21: the records are read one collection at a time, and the REPLY is `exec_dumpNext`. -/
theorem dumpNextReturnsTheRecords : Obligations.DumpNextReturnsTheRecords := by
  unfold Obligations.DumpNextReturnsTheRecords
  refine ⟨fun s i => ⟨fun e stands => ?_, fun q stands => ?_, ?_, ?_⟩, ?_⟩
  · rw [(dumpRecord_entry s i).1 e stands]
    unfold StackEntry.record
    cases e.cause <;> rfl
  · rw [(dumpRecord_entry s i).2 q stands]
    rw [Held.record, funext ceilDiv_minutes, elim_eq_match]
    cases q.wish <;> rfl
  · rintro n rfl
    rw [dumpRecord_loads]
    rcases s.state? n with _ | state
    · rfl
    · cases state <;> rfl
  · unfold State.dumpRecord
    cases s.side i <;> rfl
  · intro s src c k opened owner h beyond count
    have ends : s.endIndex c.collection = beyond := by
      simp only [beyond]
      cases c.collection <;> rfl
    have counted : dumpCount s c = count := by
      unfold dumpCount
      rw [ends]
      simp only [count]
      cases c.collection <;> rfl
    have mark : 128 * bit (decide (beyond ≤ c.next + count)) = if beyond ≤ c.next + count then 128 else 0 := by
      by_cases last : beyond ≤ c.next + count <;> simp only [last, bit] <;> rfl
    rw [exec_dumpNext k opened owner, counted, ends, mark]

end Sys2Proof.ManageProofs

namespace Sys2Proof.ManageProofs

open Sys2Proof.Machine Sys2Proof.Laws Sys2Proof.TableProofs Sys2Proof.LineProofs

/-! ### ATTENTION QUERY -/

/-- What passes a test in a rising list, when `i` is the first to pass: `i`, and those behind it. -/
theorem filter_first {n : Nat} {p : Fin n → Bool} {i : Fin n} (passes : p i = true)
    (first : ∀ j, j < i → p j = false) {l : List (Fin n)} (rising : l.Pairwise (· < ·)) (here : i ∈ l) :
    l.filter p = i :: l.filter fun j => i < j && p j := by
  induction l with
  | nil => exact absurd here List.not_mem_nil
  | cons a rest ih =>
    obtain ⟨behind, rising⟩ := List.pairwise_cons.mp rising
    rcases List.mem_cons.mp here with rfl | later
    · have same : rest.filter p = rest.filter fun j => i < j && p j :=
        List.filter_congr fun j mem => by rw [decide_eq_true (behind j mem), Bool.true_and]
      rw [List.filter_cons_of_pos passes, same]
      simp only [List.filter_cons, Fin.lt_irrefl, decide_false, Bool.false_and, Bool.false_eq_true, if_false]
    · have fails : p a = false := first a (behind i later)
      simp only [List.filter_cons, fails, Bool.and_false, Bool.false_eq_true, if_false]
      exact ih rising later

section
variable {s : State} {src : Byte}

/-- With an empty announceable set a query finds no cause, and changes nothing (R179). -/
theorem query_empty (silent : ∀ i : Fin 15, s.attention[i].announceable = false) : s.query = s.done [0, 0] := by
  have empty : s.announceable = [] := List.filter_eq_nil_iff.mpr fun i _ => Bool.eq_false_iff.mp (silent i)
  simp only [State.query, empty]

/-- A query finds the first announceable cause, counts those behind it and marks it in service (R179). -/
theorem query_first {i : Fin 15} (calls : s.attention[i].announceable = true)
    (first : ∀ j : Fin 15, j < i → s.attention[j].announceable = false) :
    s.query = (s.modifyCause i fun f => { f with inService := true }).done
      [byte (i.val + 1), byte ((List.finRange 15).countP fun j => i < j && s.attention[j].announceable)] := by
  have found : s.announceable = i :: (List.finRange 15).filter fun j => i < j && s.attention[j].announceable :=
    filter_first calls first (List.pairwise_lt_finRange 15) (List.mem_finRange i)
  simp only [State.query, found, List.countP_eq_length_filter]

/-- An ATTENTION QUERY that is taken answers what its query finds (R179). -/
theorem exec_attentionQuery {t : State} {data : List Byte} (k : s.Takes src 1)
    (found : (s.heard .panel src).query = t.done data) (same : t.ports = (s.heard .panel src).ports) :
    exec (.attentionQuery src) s = .next (t.withReply src (24 :: 0 :: data)) := by
  simp only [exec, execAttentionQuery]
  exact congrArg _ (manage_does k nofun found same)

end

/-- Settles O24: `query_empty` and `query_first`, in the state that the request meets. -/
theorem attentionQueryMarksTheFirstCause : Obligations.AttentionQueryMarksTheFirstCause := by
  unfold Obligations.AttentionQueryMarksTheFirstCause
  intro s src k h open?
  exact ⟨fun silent => exec_attentionQuery k (query_empty silent) rfl,
    fun i calls first => exec_attentionQuery k (query_first calls first) rfl⟩

/-! ### ATTENTION CONTROL -/

section
variable {s : State} {i : Fin 15} {act : CauseFlags → CauseFlags}

/-- A change of one cause's flags leaves every other cause as announceable as it was. -/
theorem announceable_modifyCause (s : State) (i : Fin 15) (act : CauseFlags → CauseFlags) (j : Fin 15) :
    (s.modifyCause i act).attention[j].announceable =
      if j = i then (act s.attention[i]).announceable else s.attention[j].announceable := by
  simp only [modifyCause_fields]
  split
  · subst j; simp
  · have apart : i.val ≠ j.val := fun e => ‹¬ j = i› (Fin.ext e.symm)
    simp [Vector.getElem_set_ne _ _ apart]

/-- An action that does not put its cause into an empty announceable set builds no NOTICE (R178, R180). -/
theorem announce_modifyCause_silent (quiet : s.calm = true → (act s.attention[i]).announceable = false) :
    (s.modifyCause i act).announce s = s.modifyCause i act := by
  unfold State.announce
  cases calm : s.calm with
  | false => rfl
  | true =>
    have still : (s.modifyCause i act).calm = true := (calm_iff _).mpr fun j => by
      rw [announceable_modifyCause, quiet calm, (calm_iff s).mp calm j, ite_self]
    rw [still]; rfl

/-- An action that puts its cause into an empty announceable set builds the NOTICE of that cause alone (R178, R180). -/
theorem announce_modifyCause_calls (calm : s.calm = true) (calls : (act s.attention[i]).announceable = true)
    (room : s.ports.replies.length < Config.replyDepth) :
    (s.modifyCause i act).announce s = (s.modifyCause i act).pushReply
      { kind := .notice, src := s.own, dst := 0, body := word16 (2 ^ i.val) } := by
  have only (j : Fin 15) : (s.modifyCause i act).attention[j].announceable = decide (j = i) := by
    rw [announceable_modifyCause, calls, (calm_iff s).mp calm j]
    split <;> simp [*]
  have loud : (s.modifyCause i act).calm = false := by
    refine Bool.eq_false_iff.mpr fun hushed => ?_
    have silent := (calm_iff _).mp hushed i
    rw [only, decide_eq_true rfl] at silent
    exact absurd silent (by decide)
  have notice : (s.modifyCause i act).noticeFrame =
      { kind := .notice, src := s.own, dst := 0, body := word16 (2 ^ i.val) } := by
    unfold State.noticeFrame
    rw [summary_single only]; rfl
  unfold State.announce
  rw [calm, loud, notice]
  exact if_pos room

theorem causeOfByte_of {cause : Byte} (named : cause.toNat = i.val + 1) : causeOfByte cause = some i := by
  have range : 1 ≤ cause.toNat ∧ cause.toNat ≤ 15 := by omega
  rw [causeOfByte, dif_pos range]
  exact congrArg some (Fin.ext (by simp [named]))

theorem causeOfByte_eq_none {cause : Byte} (outside : cause = 0 ∨ 15 < cause.toNat) : causeOfByte cause = none := by
  refine dif_neg fun ⟨low, high⟩ => ?_
  rcases outside with rfl | beyond
  · exact absurd low (by decide)
  · omega

variable {src cause : Byte}

/-- A taken action that builds no NOTICE answers OK behind its change (R180). -/
theorem controlCause_silent (k : s.TakesWrite src 3) (named : cause.toNat = i.val + 1)
    (quiet : (s.heard .panel src).calm = true → (act (s.heard .panel src).attention[i]).announceable = false) :
    s.controlCause src cause act = ((s.heard .panel src).modifyCause i act).withReply src [25, 0] := by
  rw [State.controlCause, causeOfByte_of named]
  exact manage_does k.1 (fun _ => k) (congrArg State.done (announce_modifyCause_silent quiet)) rfl

/-- A taken action that builds a NOTICE answers OK behind it (R148, R180). -/
theorem controlCause_calls (k : s.TakesWrite src 3) (named : cause.toNat = i.val + 1)
    (calm : (s.heard .panel src).calm = true)
    (calls : (act (s.heard .panel src).attention[i]).announceable = true)
    (room : (s.heard .panel src).ports.replies.length < 7) :
    s.controlCause src cause act = (((s.heard .panel src).modifyCause i act).pushReply
      { kind := .notice, src := (s.heard .panel src).own, dst := 0, body := word16 (2 ^ i.val) }).withReply
        src [25, 0] := by
  rw [State.controlCause, causeOfByte_of named, manage_takes _ k.1 fun _ => k,
    announce_modifyCause_calls calm calls k.1.2]
  refine answerManage_room ?_
  simp only [pushReply_fields, modifyCause_fields, List.length_append, List.length_singleton]
  exact Nat.succ_lt_succ room

/-- A taken action on no cause is refused BAD_ARG (R164, R180). -/
theorem controlCause_badArg (k : s.Takes src 3) (outside : cause = 0 ∨ 15 < cause.toNat) :
    s.controlCause src cause act = (s.heard .panel src).withReply src [25, 2] := by
  rw [State.controlCause, causeOfByte_eq_none outside]
  exact manage_badArg _ k

/-- A body of ATTENTION CONTROL with an action that is not one of the four names no request (R180, R185). -/
theorem manageCommand_noAction {action : Byte} (outside : action = 0 ∨ 4 < action.toNat) :
    manageCommand src [25, cause, action] = .manageUnknownRequest src [25, cause, action] := by
  have ne (a : Byte) (low : 1 ≤ a.toNat) (high : a.toNat ≤ 4) : action ≠ a := by
    rintro rfl
    rcases outside with rfl | beyond
    · exact absurd low (by decide)
    · omega
  have unnamed : manageBinary src 25 cause action = none := by
    simp only [manageBinary, ne 1 (by decide) (by decide), ne 2 (by decide) (by decide), ne 3 (by decide) (by decide),
      ne 4 (by decide) (by decide), if_false]
    rfl
  simp only [manageCommand, unnamed, Option.getD_none]

end

/-! What each action makes of its cause (R178, R180). -/

theorem announceable_clear (f : CauseFlags) : f.clear.announceable = false := rfl

theorem announceable_disable (f : CauseFlags) : f.disable.announceable = false := by
  simp [CauseFlags.announceable, CauseFlags.disable]

theorem announceable_enable (f : CauseFlags) : f.enable.announceable = (f.pending && !f.inService) := by
  simp [CauseFlags.announceable, CauseFlags.enable]

theorem announceable_release (f : CauseFlags) : f.release.announceable = (f.pending && f.enabled) := by
  simp [CauseFlags.announceable, CauseFlags.release]

/-- Settles O25: an action builds a NOTICE exactly when its cause, as it leaves it, joins a set that was empty
(`controlCause_silent`, `controlCause_calls`). -/
theorem attentionControlActsOnOneCause : Obligations.AttentionControlActsOnOneCause := by
  unfold Obligations.AttentionControlActsOnOneCause
  intro s src cause i k named h f put announced emptySet
  have calm : emptySet ↔ h.calm = true := (calm_iff h).symm
  have silent {act : CauseFlags → CauseFlags} (quiet : emptySet → (act f).announceable = false) :
      Host.Outcome.next (s.controlCause src cause act) = put (act f) :=
    congrArg _ (controlCause_silent k named fun empty => quiet (calm.mpr empty))
  have calls {act : CauseFlags → CauseFlags} (joins : (act f).announceable = true) (empty : emptySet)
      (room : h.ports.replies.length < 7) :
      Host.Outcome.next (s.controlCause src cause act) = announced (act f) :=
    congrArg _ (controlCause_calls k named (calm.mp empty) joins room)
  refine ⟨silent fun _ => announceable_clear f, silent fun _ => announceable_disable f,
    fun barred => silent fun empty => ?_, fun pending idle => calls ?_,
    fun barred => silent fun empty => ?_, fun pending enabled => calls ?_,
    fun other outside => ?_, fun action outside => ?_⟩
  · rw [announceable_enable]
    rcases barred with idle | serving | nonempty
    · simp [idle]
    · simp [serving]
    · exact absurd empty nonempty
  · simp [announceable_enable, pending, idle]
  · rw [announceable_release]
    rcases barred with idle | off | nonempty
    · simp [idle]
    · simp [off]
    · exact absurd empty nonempty
  · simp [announceable_release, pending, enabled]
  · have refused (act : CauseFlags → CauseFlags) : s.controlCause src other act = h.withReply src [25, 2] :=
      controlCause_badArg k.1 outside
    exact ⟨congrArg _ (refused _), congrArg _ (refused _), congrArg _ (refused _), congrArg _ (refused _)⟩
  · have unnamed := manageCommand_noAction (src := src) (cause := cause) outside
    exact ⟨unnamed, (unknownRequestIsAnsweredBadArg s src [25, cause, action] k.1 unnamed).1 25 [cause, action] rfl⟩

end Sys2Proof.ManageProofs

namespace Sys2Proof.TimeProofs

open Sys2Proof.Machine

/-! ### 1 ms of time -/

theorem step_idle {s : State} (idle : s.pending = []) : step s = .next s.tick := by
  simp only [step, idle]

theorem tickTimer_eq_map (t : Option Nat) : tickTimer t = t.map (· - 1) := rfl

theorem runtime_tick_eq (r : Runtime) :
    r.tick = { r with
      minOn := r.minOn.map (· - 1), lockout := r.lockout.map (· - 1)
      grace := r.grace.map (· - 1), answer := r.answer.map (· - 1) } := by
  simp only [Runtime.tick, tickTimer_eq_map]

theorem slot_tick_eq (slot : Slot) :
    slot.tick = { slot with live := slot.live.map fun l => { l with run := { l.run with
      minOn := l.run.minOn.map (· - 1), lockout := l.run.lockout.map (· - 1)
      grace := l.run.grace.map (· - 1), answer := l.run.answer.map (· - 1) } } } := by
  simp only [Slot.tick, runtime_tick_eq]

/-! Of the sequencer's states only the stagger has a timer, and it is the one timer that is no option. -/

theorem sequencer_tick_idle : Sequencer.idle.tick = .idle := rfl

theorem sequencer_tick_restoring (n : LoadNo) : (Sequencer.restoring n).tick = .restoring n := rfl

theorem sequencer_tick_stagger (left : Nat) : (Sequencer.stagger left).tick = .stagger (left - 1) := rfl

/-- Settles O2: an idle step is a tick (`step_idle`), and a tick is 1 ms off each timer (`tickTimer_eq_map`,
`slot_tick_eq`), the sequencer's by its state. -/
theorem emptyQueueLetsOneMsPass : Obligations.EmptyQueueLetsOneMsPass := by
  unfold Obligations.EmptyQueueLetsOneMsPass
  intro s idle
  rw [step_idle idle]
  have slots : Slot.tick = _ := funext slot_tick_eq
  cases seq : s.ladder.seq with
  | idle => simp only [State.tick, slots, tickTimer_eq_map, seq, sequencer_tick_idle]
  | restoring n => simp only [State.tick, slots, tickTimer_eq_map, seq, sequencer_tick_restoring]
  | stagger left => simp only [State.tick, slots, tickTimer_eq_map, seq, sequencer_tick_stagger]

end Sys2Proof.TimeProofs
